-- ==== Sys2Proof/Word.lean ====
section
/-! DEFINITION. The word types of the spec's notation (00_scope.md R12): a register word is an unsigned
32-bit value, a byte an unsigned 8-bit value, a REGACC descriptor has 36 bits (30_encoding.md R104).
Lengths, counts, positions, speeds and times are Nat, as R12 says; that byte addresses are Nat too is the
model's choice (log entry 20). -/

namespace Sys2Proof

/-- `u32`, a register word (R12). -/
abbrev Word := BitVec 32

/-- `u8`, a byte (R12). -/
abbrev Byte := BitVec 8

/-- A register-access descriptor REGACC (R104). -/
abbrev Descriptor := BitVec 36

end Sys2Proof
end

