-- ==== Sys2Proof/Syntax.lean ====
section
/-! DEFINITION. Syntax: the host commands and the register-access kinds (00_scope.md R19), one constructor
per row of the opcode table, with the data they carry; and the events of R15 that a run records. -/

namespace Sys2Proof

/-- The direction of a message (10_state.md R27). -/
inductive Direction where
  | read
  | write
deriving DecidableEq, Repr

/-- The byte span a message lends (20_memory.md R52): where it lies in the host's memory, and its size.
The placement is the host's (R59; log entry 11). -/
structure Span where
  base : Nat
  size : Nat
deriving DecidableEq, Repr

/-- A Message (10_state.md R27). Its invariant `length == size of buffer` is a check (R44), not a type. -/
structure Message where
  chipAddress : Nat
  direction   : Direction
  buffer      : Span
  length      : Nat
deriving DecidableEq, Repr

/-- The operand record that stands beside a command word as data (30_encoding.md R102). One record holds
the operands of all four commands; a command takes those its row names (log entry 13). -/
structure OperandRecord where
  speedHz     : Nat := 0
  chipAddress : Nat := 0
  messages    : List Message := []
deriving DecidableEq, Repr

/-- The seven controller registers (10_state.md R30). Offset 0x18 names none (R38). -/
inductive Reg where
  | c
  | s
  | dlen
  | a
  | fifo
  | div
  | clkt
deriving DecidableEq, Repr

/-- One constructor per row of the opcode table: four host commands (30_encoding.md R101), then the twelve
register-access kinds (R105). For the two reads DATA is the value the read returns. -/
inductive Instr where
  | init (speedHz : Nat)
  | setSpeed (speedHz : Nat)
  | probe (chipAddress : Nat)
  | xfer (messages : List Message)
  | rdS (data : Word)
  | rdFifo (data : Word)
  | wrCClear
  | wrCStartW
  | wrCStartR
  | wrSClear
  | wrDlen (length : Nat)
  | wrA (chipAddress : Nat)
  | wrFifo (byte : Byte)
  | wrDivFast
  | wrDivStd
  | wrClkt
deriving DecidableEq, Repr

/-- The encoded form of an instruction: a 32-bit command word with its operand record (R100), or a 36-bit
register-access descriptor (R104). -/
inductive Code where
  | command (word : Word) (operands : OperandRecord)
  | access (descriptor : Descriptor)
deriving DecidableEq, Repr

/-- One atomic event (00_scope.md R15): a register read with its answer, a register write with its value, a
buffer read or write with the index in the message's buffer and the byte, a clock read with its answer. -/
inductive Event where
  | read (reg : Reg) (value : Word)
  | write (reg : Reg) (value : Word)
  | bufRead (index : Nat) (byte : Byte)
  | bufWrite (index : Nat) (byte : Byte)
  | now (time : Nat)
deriving DecidableEq, Repr

end Sys2Proof
end

