-- ==== Sys2Proof/Config.lean ====
section
/-! DEFINITION. Config: the named parameters of 00_scope.md R10 at the values R10 gives them (log entries 8
and 9), and the two oracles, which have no body: nothing can evaluate them or prove a value of them. -/

namespace Sys2Proof

/-- `BASE`, OPEN in R10. DESIGN CHOICE 0 (log entry 8): only `State.reset` uses it. -/
def Config.base : Nat := 0

/-- `TIMEOUT_MS` (R10, 60_exceptions.md R264). -/
def Config.timeoutMs : Nat := 100

/-- `SPEED_FAST` (R10). -/
def Config.speedFast : Nat := 400000

/-- `SPEED_STD` (R10). -/
def Config.speedStd : Nat := 100000

/-- `DIV_FAST` (R10, 30_encoding.md R86). -/
def Config.divFast : Word := 1500

/-- `DIV_STD` (R10, R86). -/
def Config.divStd : Word := 6000

/-- `ADDR_MAX` (R10). -/
def Config.addrMax : Nat := 0x7F

/-- `DLEN_MAX` (R10). -/
def Config.dlenMax : Nat := 0xFFFF

/-- `C_CLEAR_VALUE` (R10, R90). -/
def Config.cClear : Word := 0x00000030

/-- `S_CLEAR_VALUE` (R10, R92). -/
def Config.sClear : Word := 0x00000302

/-- The value `init` writes to CLKT (R87). -/
def Config.clktOff : Word := 0x00000000

/-- FREE VALUE (log entry 5): the Device oracle (20_memory.md R60), what the device answers to a read of a
register after a register trace, where State's list `device` gives no answer. -/
opaque Config.deviceAnswer : List Event → Reg → Word

/-- FREE VALUE (log entry 6): by how many ms the next answer of the Clock oracle (60_exceptions.md R262)
exceeds the last one, where State's list `ticks` gives no advance. -/
opaque Config.clockAdvance : List Event → Nat

end Sys2Proof
end

