-- ==== Sys2Proof/Machine/State.lean ====
section
/-! DEFINITION. State: everything the spec gives the machine, as plain data (10_state.md R20 to R45), the
reasons a step can stop, and the state right after reset (R42). -/

namespace Sys2Proof.Machine

/-- TransactionResult (10_state.md R17, 30_encoding.md R113). -/
inductive Result where
  | ok
  | timeout
  | clockStretchTimeout
  | busError
  | lengthMismatch
  | invalidAddress
deriving DecidableEq, Repr

/-- What a command returns to the host (30_encoding.md R114): `Ok(())`, `Ok(bool)` or `Err(code)`. -/
inductive Return where
  | okUnit
  | okBool (present : Bool)
  | err (result : Result)
deriving DecidableEq, Repr

/-- The reasons of a refused request (70_reset_and_hazards.md R287). -/
inductive RefuseReason where
  | unknownCommand
  | probeBeforeInit
  | transferBeforeInit
  | illFormedMessage
  | overlappingCommand
  | misalignedBase
deriving DecidableEq, Repr

/-- The Transfer Engine's states (10_state.md R22). -/
inductive Phase where
  | idle
  | activePoll
  | complete
deriving DecidableEq, Repr

/-- ControllerHandle (10_state.md R21). -/
structure Handle where
  /-- The register base address. The spec fixes no address width (20_memory.md R51); that it is an unbounded
  Nat, so that `BASE + offset` never wraps, is a DESIGN CHOICE (log entry 20). -/
  base        : Nat
  lastDivider : Option Word
  lastSpeed   : Option Nat
  initialized : Bool
deriving DecidableEq, Repr

/-- TransferCursor (10_state.md R23). -/
structure Cursor where
  remaining : Nat
  position  : Nat
deriving DecidableEq, Repr

/-- `ENTRY(1)` to `ENTRY(5)`, the five entry writes of R162, and the entry's clock read after them, which
the spec's label list leaves without a number (log entry 2). -/
inductive EntryPoint where
  | clearControl
  | clearStatus
  | address
  | dataLength
  | start
  | clock
deriving DecidableEq, Repr

/-- `EXIT(1)` and `EXIT(2)`, the two exit writes of R172. -/
inductive ExitPoint where
  | clearControl
  | clearStatus
deriving DecidableEq, Repr

/-- Where a `Fill` stands (43_fifo_pump.md R200; log entry 2): at the loop test and the status read, at
BufRead, at the FIFO write of the byte `b` read. -/
inductive FillPoint where
  | sample
  | load
  | push (b : Byte)
deriving DecidableEq, Repr

/-- Where a `Drain` stands (43_fifo_pump.md R205; log entry 2): at the loop test and the status read, at the
FIFO read, at BufWrite of the byte `b` read. -/
inductive DrainPoint where
  | sample
  | pop
  | store (b : Byte)
deriving DecidableEq, Repr

/-- The engine's labels (10_state.md R25). `classify` carries the local `s` of R164, which no label after it
keeps (R39). -/
inductive Label where
  | validate
  | entry (p : EntryPoint)
  | pollRead
  | classify (s : Word)
  | fill (p : FillPoint)
  | drain (p : DrainPoint)
  | doneDrain (p : DrainPoint)
  | doneRecheck
  | deadline
  | exit (p : ExitPoint)
deriving DecidableEq, Repr

/-- `BC(op, k)` (10_state.md R25): the events of the Bus Controller's operations, with the operand `speedHz`
of the procedure that runs (41_bus_controller.md R140, R144; the two events of a probe are those of its
re-init, R148). -/
inductive BcPoint where
  | initClkt (speedHz : Nat)
  | initDiv (speedHz : Nat)
  | setSpeedDiv (speedHz : Nat)
  | probeClkt
  | probeDiv
deriving DecidableEq, Repr

/-- `loc` (10_state.md R25). The index of `SEQ(i)` is State's field `idx` (log entry 3). -/
inductive Loc where
  | idle
  | bc (p : BcPoint)
  | seq
  | eng (l : Label)
deriving DecidableEq, Repr

/-- Who invoked the engine and gets its result (42_transfer_engine.md R173; log entry 4). -/
inductive Caller where
  | sequencer
  | probe
deriving DecidableEq, Repr

/-- The word the block last wrote to each controller register (10_state.md R30 to R37; log entry 10). The
block never reads these: a register read is answered by the device (R40). -/
structure Port where
  c    : Word
  s    : Word
  dlen : Word
  a    : Word
  fifo : Word
  div  : Word
  clkt : Word
deriving DecidableEq, Repr

/-- The buffer space (20_memory.md R50, R52): address and byte pairs, addresses strictly rising, no entry
equal to what an unlisted address reads as. -/
abbrev Memory := List Host.Cell

/-- What the host does next (60_exceptions.md R258, R268; log entry 12). `pass`: nothing during one step.
`issue`: it issues a command word with its operand record at once, whether or not a command runs. `await`:
it waits until no command runs. `store`: it writes a byte of its memory, once no command runs (R64). -/
inductive HostAct where
  | pass
  | issue (word : Word) (operands : OperandRecord)
  | await
  | store (address : Nat) (byte : Byte)
deriving DecidableEq, Repr

/-- Why a step faults. Each is raised only in a state that no run reaches (`Inv` of Safety.lean rules it
out), so each is SAFE (log entry 17). -/
inductive Fault where
  /-- Raised by `silentStep` and `afterAccess`: `loc` names a point at which the spec's procedure has a
  message, a cursor, a deadline, a result or a caller, and the state has none. Safe. -/
  | inconsistent
  /-- Raised by `accessStep`: the emitted descriptor is none of the twelve kinds (30_encoding.md R106).
  Safe. -/
  | illegalAccess
  /-- Raised by `silentStep` at a BufRead or BufWrite whose index is not below the length (20_memory.md R53
  requires it). Safe. -/
  | bufferBounds
deriving DecidableEq, Repr

/-- Why a step is refused. The spec's own refusals (70_reset_and_hazards.md R287) are next states, not
these. -/
inductive Refusal where
  /-- Raised by `exec` for an instruction that has no meaning yet; no arm raises it now. Safe. -/
  | notModelled (mnemonic : String)
deriving DecidableEq, Repr

/-- The machine's state: `I2CMState` of 10_state.md R20 (`handle` to `refused`), what the spec implies
beside it (`caller`, `events`, `returns`, `refusals`), the two address spaces (`mem`, `port`), and the
model's own fields for what the outside will do (`host`, `device`, `clock`, `ticks`). -/
structure State where
  handle   : Handle
  phase    : Phase
  cur      : Option Cursor
  deadline : Option Nat
  loc      : Loc
  seq      : List Message
  idx      : Nat
  m        : Option Message
  /-- R28. How long it holds a result after the engine's return: DESIGN CHOICE, log entry 21. -/
  r        : Option Result
  refused  : Bool
  caller   : Option Caller
  mem      : Memory
  port     : Port
  events   : List Event
  returns  : List Return
  refusals : List RefuseReason
  host     : List HostAct
  device   : List Word
  clock    : Nat
  ticks    : List Nat
deriving DecidableEq, Repr

/-- The outcome type of this machine. -/
abbrev Out := Host.Outcome State Fault Refusal

/-- The block right after its handle is created (10_state.md R42, 70_reset_and_hazards.md R280, R282). The
values R42 does not give are those of log entries 5, 6, 8, 10, 11 and 12. -/
def State.reset : State where
  handle   := { base := Config.base, lastDivider := none, lastSpeed := none, initialized := false }
  phase    := .idle
  cur      := none
  deadline := none
  loc      := .idle
  seq      := []
  idx      := 0
  m        := none
  r        := none
  refused  := false
  caller   := none
  mem      := []
  port     := { c := 0, s := 0, dlen := 0, a := 0, fifo := 0, div := 0, clkt := 0 }
  events   := []
  returns  := []
  refusals := []
  host     := []
  device   := []
  clock    := 0
  ticks    := []

end Sys2Proof.Machine
end

