-- ==== Sys2Proof/Machine/Flags.lean ====
section
/-! DEFINITION. Flags: the status predicates of 30_encoding.md R82 over a status word, and the classifier of
60_exceptions.md R241, whose order is the priority of R243. Bits 31:10, TXE and RXF decide nothing. -/

namespace Sys2Proof.Machine

/-- A transfer is active, bit 0. -/
def statusTa (s : Word) : Bool := s.getLsbD 0
/-- Transfer done, bit 1. -/
def statusDone (s : Word) : Bool := s.getLsbD 1
/-- FIFO wants data, bit 2. -/
def statusTxw (s : Word) : Bool := s.getLsbD 2
/-- FIFO has data, read side, bit 3. -/
def statusRxr (s : Word) : Bool := s.getLsbD 3
/-- TX FIFO has space, bit 4. -/
def statusTxd (s : Word) : Bool := s.getLsbD 4
/-- RX FIFO has data, bit 5. -/
def statusRxd (s : Word) : Bool := s.getLsbD 5
/-- Bit 6, which no rule reads. -/
def statusTxe (s : Word) : Bool := s.getLsbD 6
/-- Bit 7, which no rule reads. -/
def statusRxf (s : Word) : Bool := s.getLsbD 7
/-- NACK or comparable hardware error, bit 8. -/
def statusErr (s : Word) : Bool := s.getLsbD 8
/-- Hardware-reported clock stall, bit 9. -/
def statusClkt (s : Word) : Bool := s.getLsbD 9

/-- What one poll-read status value decides: an exit with a result, the DONE branch, a pump call, or
nothing, which leaves step 6, the deadline. -/
inductive Decision where
  | finish (r : Result)
  | doneCheck
  | fill
  | drain
  | wait
deriving DecidableEq, Repr

/-- Steps 2 to 5 of a poll iteration (42_transfer_engine.md R164 to R169, 60_exceptions.md R241). -/
def classify (s : Word) (remaining : Nat) : Decision :=
  if statusClkt s then .finish .clockStretchTimeout
  else if statusErr s && !statusTa s then .finish .busError
  else if statusDone s then .doneCheck
  else if statusTxw s then
    if remaining = 0 then .finish .lengthMismatch else .fill
  else if statusRxr s then
    if remaining = 0 then .finish .lengthMismatch else .drain
  else .wait

/-- DONE on a Write message (R167). -/
def writeDoneResult (remaining : Nat) : Result :=
  if remaining = 0 then .ok else .lengthMismatch

/-- DONE on a Read message, after the final drain, from the recheck's status value (R166). -/
def readDoneResult (s2 : Word) (remaining : Nat) : Result :=
  if statusRxd s2 = true ∨ remaining ≠ 0 then .lengthMismatch else .ok

/-- Step 6 (R170): the comparison is strict. -/
def deadlinePassed (now deadline : Nat) : Bool := decide (deadline < now)

end Sys2Proof.Machine
end

