-- ==== Sys2Proof/WellFormed.lean ====
section
/-! DEFINITION. WellFormed: which instructions have an encoding. The two checks are the operand ranges of
`WR_DLEN` and `WR_A` (40_register_interface.md R128, R129). A message that breaks R44 does not make an
`XFER` ill formed as an instruction: the command has its word and its meaning, a refusal (R225). -/

namespace Sys2Proof

/-- The operands are ones the instruction's encoding admits. -/
def Instr.wf : Instr → Bool
  | .init _ => true
  | .setSpeed _ => true
  | .probe _ => true
  | .xfer _ => true
  | .rdS _ => true
  | .rdFifo _ => true
  | .wrCClear => true
  | .wrCStartW => true
  | .wrCStartR => true
  | .wrSClear => true
  | .wrDlen n => decide (n ≤ Config.dlenMax)
  | .wrA a => decide (a ≤ Config.addrMax)
  | .wrFifo _ => true
  | .wrDivFast => true
  | .wrDivStd => true
  | .wrClkt => true

end Sys2Proof
end

