-- ==== Sys2Proof/Decode.lean ====
section
/-! DEFINITION. Decode and encode (30_encoding.md): HOSTCMD words (R100 to R103) and REGACC descriptors
(R104 to R107). Both decoders are total; `none` refuses by name in the step: an unknown command word is
`UnknownCommand` (R103), an illegal descriptor is one the block never emits (R106). -/

namespace Sys2Proof

/-! ### Field helpers (00_scope.md R12, 30_encoding.md R85) -/

/-- `zext_32` of a byte. -/
def zext32 (b : Byte) : Word := b.setWidth 32

/-- `zext_32` of a number; the numbers the block passes fit (R83, R84). -/
def natWord (n : Nat) : Word := BitVec.ofNat 32 n

/-- `trunc_8`. -/
def trunc8 (w : Word) : Byte := w.setWidth 8

/-- The offset of a register (10_state.md R30). -/
def Reg.offset : Reg → Nat
  | .c => 0x0
  | .s => 0x4
  | .dlen => 0x8
  | .a => 0xC
  | .fifo => 0x10
  | .div => 0x14
  | .clkt => 0x1C

/-- IDX of a register: its offset divided by 4 (R104). -/
def Reg.index (r : Reg) : BitVec 3 := BitVec.ofNat 3 (r.offset / 4)

/-- A descriptor from its fields, W in bit 35, IDX in 34:32, DATA in 31:0 (R104). -/
def descriptor (w : BitVec 1) (r : Reg) (data : Word) : Descriptor := w ++ r.index ++ data

/-- The descriptor of a register read that answers `data`. -/
def readDescriptor (r : Reg) (data : Word) : Descriptor := descriptor 0 r data

/-- The descriptor of a register write of `data`. -/
def writeDescriptor (r : Reg) (data : Word) : Descriptor := descriptor 1 r data

/-- The DATA field (R104). -/
def descriptorData (d : Descriptor) : Word := d.extractLsb' 0 32

/-! ### HOSTCMD -/

/-- The op field, bits 3:0 of a command word (R100). -/
def commandOp (w : Word) : BitVec 4 := w.extractLsb' 0 4

/-- The reserved field, bits 31:4 of a command word (R100). -/
def commandReserved (w : Word) : BitVec 28 := w.extractLsb' 4 28

/-- The command a word and its operand record spell (R100 to R103). -/
def decodeCommand (w : Word) (ops : OperandRecord) : Option Instr :=
  if commandReserved w = 0 then
    if commandOp w = 0x1 then some (.init ops.speedHz)
    else if commandOp w = 0x2 then some (.setSpeed ops.speedHz)
    else if commandOp w = 0x3 then some (.probe ops.chipAddress)
    else if commandOp w = 0x4 then some (.xfer ops.messages)
    else none
  else none

/-! ### REGACC -/

/-- One row of the table of R105: match, mask, and how the row reads its operands. -/
structure AccessRow where
  pattern : Descriptor
  mask    : Descriptor
  build   : Descriptor → Instr

/-- The twelve rows of R105, in its order. -/
def accessRows : List AccessRow :=
  [ ⟨0x100000000, 0xF00000000, fun d => .rdS (descriptorData d)⟩,
    ⟨0x400000000, 0xF00000000, fun d => .rdFifo (descriptorData d)⟩,
    ⟨0x800000030, 0xFFFFFFFFF, fun _ => .wrCClear⟩,
    ⟨0x800008080, 0xFFFFFFFFF, fun _ => .wrCStartW⟩,
    ⟨0x800008081, 0xFFFFFFFFF, fun _ => .wrCStartR⟩,
    ⟨0x900000302, 0xFFFFFFFFF, fun _ => .wrSClear⟩,
    ⟨0xA00000000, 0xFFFFF0000, fun d => .wrDlen (d.extractLsb' 0 16).toNat⟩,
    ⟨0xB00000000, 0xFFFFFFF80, fun d => .wrA (d.extractLsb' 0 7).toNat⟩,
    ⟨0xC00000000, 0xFFFFFFF00, fun d => .wrFifo (d.extractLsb' 0 8)⟩,
    ⟨0xD000005DC, 0xFFFFFFFFF, fun _ => .wrDivFast⟩,
    ⟨0xD00001770, 0xFFFFFFFFF, fun _ => .wrDivStd⟩,
    ⟨0xF00000000, 0xFFFFFFFFF, fun _ => .wrClkt⟩ ]

/-- `(d & mask) == match` (R107). -/
def AccessRow.fits (row : AccessRow) (d : Descriptor) : Bool := d &&& row.mask == row.pattern

/-- The first row that fits, in order; none of them: the descriptor is illegal (R106, R107). -/
def decodeAccess (d : Descriptor) : Option Instr :=
  (accessRows.find? fun row => row.fits d).map fun row => row.build d

/-- The decoder on both forms. -/
def decode : Code → Option Instr
  | .command w ops => decodeCommand w ops
  | .access d => decodeAccess d

/-! ### Encoding, from the same tables (R101, R104, R105) -/

/-- The words of an instruction. -/
def encode : Instr → Code
  | .init v => .command 0x00000001 { speedHz := v }
  | .setSpeed v => .command 0x00000002 { speedHz := v }
  | .probe a => .command 0x00000003 { chipAddress := a }
  | .xfer ms => .command 0x00000004 { messages := ms }
  | .rdS v => .access (readDescriptor .s v)
  | .rdFifo v => .access (readDescriptor .fifo v)
  | .wrCClear => .access (writeDescriptor .c 0x00000030)
  | .wrCStartW => .access (writeDescriptor .c 0x00008080)
  | .wrCStartR => .access (writeDescriptor .c 0x00008081)
  | .wrSClear => .access (writeDescriptor .s 0x00000302)
  | .wrDlen n => .access (writeDescriptor .dlen (natWord n))
  | .wrA a => .access (writeDescriptor .a (natWord a))
  | .wrFifo b => .access (writeDescriptor .fifo (zext32 b))
  | .wrDivFast => .access (writeDescriptor .div 0x000005DC)
  | .wrDivStd => .access (writeDescriptor .div 0x00001770)
  | .wrClkt => .access (writeDescriptor .clkt 0x00000000)

/-- The descriptor of a trace event (R104), none for an event that is no register access. -/
def Event.descriptor? : Event → Option Descriptor
  | .read r v => some (readDescriptor r v)
  | .write r v => some (writeDescriptor r v)
  | .bufRead _ _ => none
  | .bufWrite _ _ => none
  | .now _ => none

/-- The code of a table row's word: a HOSTCMD word with a record of zeros, or a descriptor. A row of more
than 32 bits, or a word that needs more than 32, is a descriptor (30_encoding.md R109). -/
def tableCode (nbits w : Nat) : Option Code :=
  if nbits ≤ 32 ∧ w < 2 ^ 32 then some (.command (natWord w) {})
  else if w < 2 ^ 36 then some (.access (BitVec.ofNat 36 w))
  else none

/-- The instruction the decoder reads from an opcode-table word. -/
def decodeTableWord (nbits w : Nat) : Option Instr :=
  (tableCode nbits w).bind decode

end Sys2Proof
end

