-- ==== Sys2Proof/Machine/Operands.lean ====
section
/-! DEFINITION. Operands: how the operands of the four commands become the words of the register port
(30_encoding.md R91 to R94, R108), when a message is well formed (10_state.md R44), and how a result is
returned (30_encoding.md R113, R114). -/

namespace Sys2Proof.Machine

/-- `divider(speedHz)` (R94). -/
def divider (speedHz : Nat) : Word :=
  if speedHz = Config.speedFast then Config.divFast else Config.divStd

/-- `nominal(speedHz)` (R94). -/
def nominal (speedHz : Nat) : Nat :=
  if speedHz = Config.speedFast then Config.speedFast else Config.speedStd

/-- `C_READ`, `C_START`, `C_I2CEN` as single-bit masks (00_scope.md R14). -/
def controlRead : Word := 0x00000001
def controlStart : Word := 0x00000080
def controlEnable : Word := 0x00008000

/-- `startWord(dir)` (R91). -/
def startWord : Direction → Word
  | .read => controlEnable ||| controlStart ||| controlRead
  | .write => controlEnable ||| controlStart

/-- The A word of a message (R84). -/
def addressWord (m : Message) : Word := natWord m.chipAddress

/-- The DLEN word of a message (R83). -/
def lengthWord (m : Message) : Word := natWord m.length

/-- A message is well formed (10_state.md R44). -/
def messageWf (m : Message) : Bool :=
  decide (m.length = m.buffer.size) && decide (m.length ≤ Config.dlenMax)

/-- A chip address is valid (10_state.md R44, 42_transfer_engine.md R161). -/
def addressValid (chipAddress : Nat) : Bool := decide (chipAddress ≤ Config.addrMax)

/-- The zero-length Write a probe runs (41_bus_controller.md R146). -/
def probeMessage (chipAddress : Nat) : Message :=
  { chipAddress := chipAddress, direction := .write, buffer := { base := 0, size := 0 }, length := 0 }

/-- The result codes (R113). -/
def resultCode : Result → Nat
  | .ok => 0
  | .timeout => 1
  | .clockStretchTimeout => 2
  | .busError => 3
  | .lengthMismatch => 4
  | .invalidAddress => 5

/-- What `probe` returns for an engine result (41_bus_controller.md R146, R147; R114). -/
def probeReturn : Result → Return
  | .ok => .okBool true
  | .busError => .okBool false
  | .timeout => .err .timeout
  | .clockStretchTimeout => .err .clockStretchTimeout
  | .lengthMismatch => .err .lengthMismatch
  | .invalidAddress => .err .invalidAddress

end Sys2Proof.Machine
end

