-- ==== Sys2Proof/Machine/Ops.lean ====
section
/-! DEFINITION. Ops: the named operations every meaning is built from: the buffer space, the register port
(40_register_interface.md R120, R121), the buffer primitives (20_memory.md R53), the clock (60_exceptions.md
R262), refusing (70_reset_and_hazards.md R287), the error exit `finish` (42_transfer_engine.md R172, the trap
entry of 60_exceptions.md R250) and the return from it (R251). -/

namespace Sys2Proof.Machine

/-! ### The buffer space -/

/-- What an address that is not listed reads as. DESIGN CHOICE (log entry 11). -/
def Memory.unlisted : Byte := 0

/-- The byte at an address. -/
def Memory.read : Memory → Nat → Byte
  | [], _ => Memory.unlisted
  | (k, v) :: rest, a => if k = a then v else Memory.read rest a

/-- The cell, if a listed address may hold the byte. -/
def Memory.cell (a : Nat) (b : Byte) : Memory :=
  if b = Memory.unlisted then [] else [(a, b)]

/-- Writes a byte and keeps the canonical form. -/
def Memory.write : Memory → Nat → Byte → Memory
  | [], a, b => Memory.cell a b
  | (k, v) :: rest, a, b =>
    if a < k then Memory.cell a b ++ (k, v) :: rest
    else if a = k then Memory.cell a b ++ rest
    else (k, v) :: Memory.write rest a b

/-- The canonical form: addresses strictly rising, no entry equal to what an unlisted address reads as. -/
def Memory.wf : Memory → Bool
  | [] => true
  | (k, v) :: rest =>
    decide (v ≠ Memory.unlisted) && rest.all (fun c => decide (k < c.1)) && Memory.wf rest

/-! ### The register port -/

/-- The last word written to a register. -/
def Port.get (p : Port) : Reg → Word
  | .c => p.c
  | .s => p.s
  | .dlen => p.dlen
  | .a => p.a
  | .fifo => p.fifo
  | .div => p.div
  | .clkt => p.clkt

/-- A write reaches the device before the block's next event (20_memory.md R62). -/
def Port.set (p : Port) (v : Word) : Reg → Port
  | .c => { p with c := v }
  | .s => { p with s := v }
  | .dlen => { p with dlen := v }
  | .a => { p with a := v }
  | .fifo => { p with fifo := v }
  | .div => { p with div := v }
  | .clkt => { p with clkt := v }

/-- The byte address of a register (20_memory.md R51). It never wraps: DESIGN CHOICE (log entry 20). -/
def State.regAddress (s : State) (r : Reg) : Nat := s.handle.base + r.offset

/-- Is the event an access of the register port. -/
def isAccess : Event → Bool
  | .read _ _ => true
  | .write _ _ => true
  | .bufRead _ _ => false
  | .bufWrite _ _ => false
  | .now _ => false

/-- The register trace of 00_scope.md R15. -/
def State.trace (s : State) : List Event := s.events.filter isAccess

/-- One event more. -/
def State.record (s : State) (e : Event) : State := { s with events := s.events ++ [e] }

/-- What the device answers to a read now (20_memory.md R60; log entry 5). -/
def State.answer (s : State) (r : Reg) : Word :=
  match s.device with
  | v :: _ => v
  | [] => Config.deviceAnswer s.trace r

/-- `RegRead(off)` that the device answers with `v` (R120): one device access, no block state. -/
def State.regRead (s : State) (r : Reg) (v : Word) : State :=
  { s with events := s.events ++ [.read r v], device := s.device.tail }

/-- `RegWrite(off, v)` (R121): one device access, no block state. -/
def State.regWrite (s : State) (r : Reg) (v : Word) : State :=
  { s with events := s.events ++ [.write r v], port := s.port.set v r }

/-! ### Buffers and clock -/

/-- The address of byte i of a message's buffer. -/
def bufAddress (m : Message) (i : Nat) : Nat := m.buffer.base + i

/-- The byte `BufRead(m, i)` returns (R53). -/
def State.bufByte (s : State) (m : Message) (i : Nat) : Byte := s.mem.read (bufAddress m i)

/-- `BufRead(m, i)` as an event. -/
def State.bufRead (s : State) (m : Message) (i : Nat) : State :=
  s.record (.bufRead i (s.bufByte m i))

/-- `BufWrite(m, i, b)` (R53). -/
def State.bufWrite (s : State) (m : Message) (i : Nat) (b : Byte) : State :=
  { s with mem := s.mem.write (bufAddress m i) b, events := s.events ++ [.bufWrite i b] }

/-- By how much the next clock answer exceeds the last (60_exceptions.md R263; log entry 6). -/
def State.advance (s : State) : Nat :=
  match s.ticks with
  | t :: _ => t
  | [] => Config.clockAdvance s.events

/-- What `Now()` answers (R262). -/
def State.nowAnswer (s : State) : Nat := s.clock + s.advance

/-- `Now()` as an event. -/
def State.readClock (s : State) : State :=
  { s with clock := s.nowAnswer, ticks := s.ticks.tail, events := s.events ++ [.now s.nowAnswer] }

/-! ### Control -/

/-- Is no command running. -/
def Loc.isIdle : Loc → Bool
  | .idle => true
  | .bc _ => false
  | .seq => false
  | .eng _ => false

/-- `loc` goes to a label. -/
def State.goto (s : State) (l : Loc) : State := { s with loc := l }

/-- `refuse(reason)` (70_reset_and_hazards.md R287): the sticky mark, and nothing else of the machine. -/
def State.refuse (s : State) (reason : RefuseReason) : State :=
  { s with refused := true, refusals := s.refusals ++ [reason] }

/-- Why a command is refused before its first access (R286, R287; order: log entry 14): `own` is the
command's own reason, if any. -/
def State.refusal (s : State) (own : Option RefuseReason) : Option RefuseReason :=
  if s.loc.isIdle = false then some .overlappingCommand
  else if s.handle.base % 4 ≠ 0 then some .misalignedBase
  else own

/-- Admission (R286): the command starts, or it is refused. -/
def State.admission (s : State) (own : Option RefuseReason) (started : State) : Out :=
  match s.refusal own with
  | some reason => .next (s.refuse reason)
  | none => .next started

/-- One byte moved by the pump (43_fifo_pump.md R203, R208). -/
def Cursor.advance (c : Cursor) : Cursor :=
  { remaining := c.remaining - 1, position := c.position + 1 }

/-- The handle after `divider(speedHz)` has been written (41_bus_controller.md R140, R144). -/
def State.recordSpeed (s : State) (speedHz : Nat) (initialized : Bool) : State :=
  { s with handle := { s.handle with lastDivider := some (divider speedHz),
                                     lastSpeed := some (nominal speedHz),
                                     initialized := initialized } }

/-- A command returns to the host: the block is quiescent again (10_state.md R46, 60_exceptions.md R260). -/
def State.commandReturn (s : State) (v : Return) : State :=
  { s with loc := .idle, phase := .idle, cur := none, deadline := none, m := none, r := none,
           caller := none, seq := [], idx := 0, returns := s.returns ++ [v] }

/-- The engine is invoked on a message (42_transfer_engine.md R160). -/
def State.enterEngine (s : State) (caller : Caller) (m : Message) : State :=
  { s with caller := some caller, m := some m, loc := .eng .validate }

/-- `finish(r)`, up to its first write (R172). -/
def State.finish (s : State) (res : Result) : State :=
  { s with r := some res, phase := .complete, loc := .eng (.exit .clearControl) }

/-- The engine lets go of its message and is IDLE again (R172, R173). -/
def State.release (s : State) : State :=
  { s with cur := none, deadline := none, m := none, phase := .idle, caller := none }

/-- The Sequencer's next message (44_message_sequencer.md R220). That r is cleared here, at the engine's
return, and not at the command's is the model's choice (R28, R173; DESIGN CHOICE, log entry 21). -/
def State.nextMessage (s : State) : State :=
  { s with r := none, idx := s.idx + 1, loc := .seq }

/-- The engine returns its result to its caller (R173, 60_exceptions.md R251): a probe goes on to its
re-init and keeps r for its own return (41_bus_controller.md R146); the Sequencer goes on to the next
message after `Ok` and returns `Err(r)` otherwise (R220, R222). How long r holds the result after the
engine's return, none left after an `Ok` message and all through a probe's re-init, is the model's choice
(10_state.md R28, R46 and R173 differ; DESIGN CHOICE, log entry 21). -/
def State.engineReturn (s : State) (res : Result) : Out :=
  match s.caller with
  | none => .fault .inconsistent
  | some .probe => .next { s.release with r := some res, loc := .bc .probeClkt }
  | some .sequencer =>
    if res = .ok then .next s.release.nextMessage
    else .next (s.commandReturn (.err res))

end Sys2Proof.Machine
end

