-- ==== Sys2Proof/Machine/BusController.lean ====
section
/-! DEFINITION. Bus Controller: the meanings of INIT, SETSPEED and PROBE (41_bus_controller.md). A meaning
admits its command and starts it at its first label, or refuses it; the events the command then makes are
those of `Machine/Engine.lean`, one step each (log entry 1). -/

namespace Sys2Proof.Machine

/-- INIT (R140): the first event is the write of CLKT (R141). -/
def execInit (speedHz : Nat) (s : State) : Out :=
  s.admission none (s.goto (.bc (.initClkt speedHz)))

/-- SETSPEED (R144): it has no precondition (R145); its one event is the write of DIV. -/
def execSetSpeed (speedHz : Nat) (s : State) : Out :=
  s.admission none (s.goto (.bc (.setSpeedDiv speedHz)))

/-- PROBE (R146): refused before `init` (R149), else the engine runs on a zero-length Write. -/
def execProbe (chipAddress : Nat) (s : State) : Out :=
  s.admission (if s.handle.initialized then none else some .probeBeforeInit)
    (s.enterEngine .probe (probeMessage chipAddress))

end Sys2Proof.Machine
end

