-- ==== Sys2Proof/Machine/RegisterInterface.lean ====
section
/-! DEFINITION. Register Interface: the meanings of the twelve access kinds (40_register_interface.md R122
to R133), each one device access that changes no block state (R120, R121, R134). Where the running
procedure goes on is not part of the access: `afterAccess` of `Machine/Engine.lean` says it. -/

namespace Sys2Proof.Machine

/-- RD_S (R122), answered with `data`. -/
def execRdS (data : Word) (s : State) : Out := .next (s.regRead .s data)

/-- RD_FIFO (R123), answered with `data`. -/
def execRdFifo (data : Word) (s : State) : Out := .next (s.regRead .fifo data)

/-- WR_C_CLEAR (R124). -/
def execWrCClear (s : State) : Out := .next (s.regWrite .c Config.cClear)

/-- WR_C_START_W (R125). -/
def execWrCStartW (s : State) : Out := .next (s.regWrite .c (startWord .write))

/-- WR_C_START_R (R126). -/
def execWrCStartR (s : State) : Out := .next (s.regWrite .c (startWord .read))

/-- WR_S_CLEAR (R127). -/
def execWrSClear (s : State) : Out := .next (s.regWrite .s Config.sClear)

/-- WR_DLEN (R128). The decoder yields lengths up to 0xFFFF only (log entry 19). -/
def execWrDlen (length : Nat) (s : State) : Out := .next (s.regWrite .dlen (natWord length))

/-- WR_A (R129). The decoder yields addresses up to 0x7F only (log entry 19). -/
def execWrA (chipAddress : Nat) (s : State) : Out := .next (s.regWrite .a (natWord chipAddress))

/-- WR_FIFO (R130). -/
def execWrFifo (byte : Byte) (s : State) : Out := .next (s.regWrite .fifo (zext32 byte))

/-- WR_DIV_FAST (R131). -/
def execWrDivFast (s : State) : Out := .next (s.regWrite .div Config.divFast)

/-- WR_DIV_STD (R132). -/
def execWrDivStd (s : State) : Out := .next (s.regWrite .div Config.divStd)

/-- WR_CLKT (R133). -/
def execWrClkt (s : State) : Out := .next (s.regWrite .clkt Config.clktOff)

end Sys2Proof.Machine
end

