-- ==== Sys2Proof/Machine/Sequencer.lean ====
section
/-! DEFINITION. Message Sequencer: the meaning of XFER (44_message_sequencer.md R220). -/

namespace Sys2Proof.Machine

/-- Why an XFER is refused on its own account (R225), in the order of R220. -/
def xferRefusal (messages : List Message) (s : State) : Option RefuseReason :=
  if s.handle.initialized = false then some .transferBeforeInit
  else if messages.all messageWf = false then some .illFormedMessage
  else none

/-- XFER (R220): the Sequencer takes the list and starts at message 0. -/
def execXfer (messages : List Message) (s : State) : Out :=
  s.admission (xferRefusal messages s) { s with seq := messages, idx := 0, loc := .seq }

end Sys2Proof.Machine
end

