-- ==== Sys2Proof/Machine/Dispatch.lean ====
section
/-! DEFINITION. Dispatch: one arm per constructor of Instr. -/

namespace Sys2Proof.Machine

def exec (i : Instr) (s : State) : Host.Outcome State Fault Refusal :=
  match i with
  -- host commands (30_encoding.md R101)
  | .init speedHz => Sys2Proof.Machine.execInit speedHz s
  | .setSpeed speedHz => Sys2Proof.Machine.execSetSpeed speedHz s
  | .probe chipAddress => Sys2Proof.Machine.execProbe chipAddress s
  | .xfer messages => Sys2Proof.Machine.execXfer messages s
  -- register accesses (30_encoding.md R105)
  | .rdS data => Sys2Proof.Machine.execRdS data s
  | .rdFifo data => Sys2Proof.Machine.execRdFifo data s
  | .wrCClear => Sys2Proof.Machine.execWrCClear s
  | .wrCStartW => Sys2Proof.Machine.execWrCStartW s
  | .wrCStartR => Sys2Proof.Machine.execWrCStartR s
  | .wrSClear => Sys2Proof.Machine.execWrSClear s
  | .wrDlen length => Sys2Proof.Machine.execWrDlen length s
  | .wrA chipAddress => Sys2Proof.Machine.execWrA chipAddress s
  | .wrFifo byte => Sys2Proof.Machine.execWrFifo byte s
  | .wrDivFast => Sys2Proof.Machine.execWrDivFast s
  | .wrDivStd => Sys2Proof.Machine.execWrDivStd s
  | .wrClkt => Sys2Proof.Machine.execWrClkt s

end Sys2Proof.Machine
end

