-- ==== Sys2Proof/Machine/Engine.lean ====
section
/-! DEFINITION. Engine: the control of the procedures Init, SetSpeed, Probe (41_bus_controller.md), Engine
(42_transfer_engine.md R160), Fill, Drain (43_fifo_pump.md R200, R205) and Transfer (44_message_sequencer.md
R220), label by label of `loc` (10_state.md R25). `accessAt` is the descriptor the procedure emits at a
label; `afterAccess` moves on when that access is done; `silentStep` does what a label does without the
register port: a decision, a buffer event, or a clock read. -/

namespace Sys2Proof.Machine

/-- The label after an entry point (R162). -/
def EntryPoint.next : EntryPoint → Label
  | .clearControl => .entry .clearStatus
  | .clearStatus => .entry .address
  | .address => .entry .dataLength
  | .dataLength => .entry .start
  | .start => .entry .clock
  | .clock => .pollRead

/-- The status read, as the device answers it now. -/
def State.statusRead (s : State) : Descriptor := readDescriptor .s (s.answer .s)

/-- May the pump move a byte: the loop test, before any status read (43_fifo_pump.md R201, R206). -/
def State.pumpWanted (s : State) : Bool :=
  match s.cur with
  | some c => decide (c.remaining ≠ 0)
  | none => false

/-- The entry writes (R162). -/
def entryAccess (s : State) : EntryPoint → Option Descriptor
  | .clearControl => some (writeDescriptor .c Config.cClear)
  | .clearStatus => some (writeDescriptor .s Config.sClear)
  | .address => s.m.map fun m => writeDescriptor .a (addressWord m)
  | .dataLength => s.m.map fun m => writeDescriptor .dlen (lengthWord m)
  | .start => s.m.map fun m => writeDescriptor .c (startWord m.direction)
  | .clock => none

/-- The accesses of Fill (43_fifo_pump.md R200). -/
def fillAccess (s : State) : FillPoint → Option Descriptor
  | .sample => if s.pumpWanted then some s.statusRead else none
  | .load => none
  | .push b => some (writeDescriptor .fifo (zext32 b))

/-- The accesses of Drain (43_fifo_pump.md R205). -/
def drainAccess (s : State) : DrainPoint → Option Descriptor
  | .sample => if s.pumpWanted then some s.statusRead else none
  | .pop => some (readDescriptor .fifo (s.answer .fifo))
  | .store _ => none

/-- The exit writes (42_transfer_engine.md R172). -/
def exitAccess : ExitPoint → Descriptor
  | .clearControl => writeDescriptor .c Config.cClear
  | .clearStatus => writeDescriptor .s Config.sClear

/-- The accesses of the Bus Controller (41_bus_controller.md R140, R144, R148). -/
def bcAccess : BcPoint → Descriptor
  | .initClkt _ => writeDescriptor .clkt Config.clktOff
  | .initDiv v => writeDescriptor .div (divider v)
  | .setSpeedDiv v => writeDescriptor .div (divider v)
  | .probeClkt => writeDescriptor .clkt Config.clktOff
  | .probeDiv => writeDescriptor .div (divider Config.speedStd)

/-- The accesses of the engine's labels (R160). -/
def engineAccess (s : State) : Label → Option Descriptor
  | .validate => none
  | .entry p => entryAccess s p
  | .pollRead => some s.statusRead
  | .classify _ => none
  | .fill p => fillAccess s p
  | .drain p => drainAccess s p
  | .doneDrain p => drainAccess s p
  | .doneRecheck => some s.statusRead
  | .deadline => none
  | .exit p => some (exitAccess p)

/-- The descriptor the running procedure emits at `loc`, if it makes a register access there. For a read,
DATA is the device's answer (30_encoding.md R104). -/
def accessAt (s : State) : Option Descriptor :=
  match s.loc with
  | .idle => none
  | .bc p => some (bcAccess p)
  | .seq => none
  | .eng l => engineAccess s l

/-! ### After an access -/

/-- A pump's byte is moved; the loop starts again (43_fifo_pump.md R203, R208). -/
def State.pumped (s : State) (next : Label) : Out :=
  match s.cur with
  | some c => .next { s with cur := some c.advance, loc := .eng next }
  | none => .fault .inconsistent

/-- A probe's re-init is done: it maps the engine's result and returns (41_bus_controller.md R146 to
R148). -/
def State.probeDone (s : State) : Out :=
  match s.r with
  | some res => .next ((s.recordSpeed Config.speedStd true).commandReturn (probeReturn res))
  | none => .fault .inconsistent

/-- The recheck of a Read message's DONE branch (42_transfer_engine.md R166). -/
def State.recheck (s : State) (s2 : Word) : Out :=
  match s.cur with
  | some c => .next (s.finish (readDoneResult s2 c.remaining))
  | none => .fault .inconsistent

/-- The second exit write is done: the engine returns r (R172, R173). -/
def State.exitDone (s : State) : Out :=
  match s.r with
  | some res => s.engineReturn res
  | none => .fault .inconsistent

/-- After an access of the Bus Controller. -/
def afterBcAccess (s : State) : BcPoint → Out
  | .initClkt v => .next (s.goto (.bc (.initDiv v)))
  | .initDiv v => .next ((s.recordSpeed v true).commandReturn .okUnit)
  | .setSpeedDiv v => .next ((s.recordSpeed v s.handle.initialized).commandReturn .okUnit)
  | .probeClkt => .next (s.goto (.bc .probeDiv))
  | .probeDiv => s.probeDone

/-- After an access of Fill; `data` is the value read. -/
def afterFillAccess (s : State) (data : Word) : FillPoint → Out
  | .sample => .next (s.goto (.eng (if statusTxd data then .fill .load else .deadline)))
  | .load => .fault .inconsistent
  | .push _ => s.pumped (.fill .sample)

/-- After an access of Drain; `label` wraps its points, `done` is the label its caller goes on at. -/
def afterDrainAccess (s : State) (data : Word) (label : DrainPoint → Label) (done : Label) :
    DrainPoint → Out
  | .sample => .next (s.goto (.eng (if statusRxd data then label .pop else done)))
  | .pop => .next (s.goto (.eng (label (.store (trunc8 data)))))
  | .store _ => .fault .inconsistent

/-- After an access of the engine; `data` is the descriptor's DATA. -/
def afterEngineAccess (s : State) (data : Word) : Label → Out
  | .validate => .fault .inconsistent
  | .entry p => .next (s.goto (.eng p.next))
  | .pollRead => .next (s.goto (.eng (.classify data)))
  | .classify _ => .fault .inconsistent
  | .fill p => afterFillAccess s data p
  | .drain p => afterDrainAccess s data .drain .deadline p
  | .doneDrain p => afterDrainAccess s data .doneDrain .doneRecheck p
  | .doneRecheck => s.recheck data
  | .deadline => .fault .inconsistent
  | .exit .clearControl => .next (s.goto (.eng (.exit .clearStatus)))
  | .exit .clearStatus => s.exitDone

/-- Where the procedure goes once its access at `loc` is done. -/
def afterAccess (s : State) (data : Word) : Out :=
  match s.loc with
  | .idle => .fault .inconsistent
  | .bc p => afterBcAccess s p
  | .seq => .fault .inconsistent
  | .eng l => afterEngineAccess s data l

/-! ### Steps without the register port -/

/-- `SEQ(i)` (44_message_sequencer.md R220): the next message, or `Ok(())`. -/
def seqStep (s : State) : Out :=
  match s.seq[s.idx]? with
  | some m => .next (s.enterEngine .sequencer m)
  | none => .next (s.commandReturn .okUnit)

/-- VALIDATE (42_transfer_engine.md R161): an invalid address returns at once. -/
def validateStep (s : State) : Out :=
  match s.m with
  | some m =>
    if addressValid m.chipAddress then .next (s.goto (.eng (.entry .clearControl)))
    else s.engineReturn .invalidAddress
  | none => .fault .inconsistent

/-- The end of the entry (R162): cursor, clock read, deadline, phase. -/
def entryClockStep (s : State) : Out :=
  match s.m with
  | some m =>
    .next { s.readClock with cur := some { remaining := m.length, position := 0 },
                             deadline := some (s.nowAnswer + Config.timeoutMs),
                             phase := .activePoll,
                             loc := .eng .pollRead }
  | none => .fault .inconsistent

/-- The DONE branch (R166, R167): a Read drains and rechecks, a Write ends. -/
def doneStep (s : State) (m : Message) (c : Cursor) : State :=
  match m.direction with
  | .read => s.goto (.eng (.doneDrain .sample))
  | .write => s.finish (writeDoneResult c.remaining)

/-- CLASSIFY (R164, R241). -/
def classifyStep (s : State) (w : Word) : Out :=
  match s.m, s.cur with
  | some m, some c =>
    match classify w c.remaining with
    | .finish res => .next (s.finish res)
    | .doneCheck => .next (doneStep s m c)
    | .fill => .next (s.goto (.eng (.fill .sample)))
    | .drain => .next (s.goto (.eng (.drain .sample)))
    | .wait => .next (s.goto (.eng .deadline))
  | _, _ => .fault .inconsistent

/-- The pump's loop ends on `remaining = 0`, with no status read (43_fifo_pump.md R201, R206). -/
def pumpEnd (s : State) (done : Label) : Out :=
  match s.cur with
  | some _ => .next (s.goto (.eng done))
  | none => .fault .inconsistent

/-- BufRead of Fill (R200). -/
def loadStep (s : State) : Out :=
  match s.m, s.cur with
  | some m, some c =>
    if c.position < m.length then
      .next ((s.bufRead m c.position).goto (.eng (.fill (.push (s.bufByte m c.position)))))
    else .fault .bufferBounds
  | _, _ => .fault .inconsistent

/-- BufWrite of Drain, and the byte is moved (R205). -/
def storeStep (s : State) (b : Byte) (next : Label) : Out :=
  match s.m, s.cur with
  | some m, some c =>
    if c.position < m.length then (s.bufWrite m c.position b).pumped next
    else .fault .bufferBounds
  | _, _ => .fault .inconsistent

/-- DEADLINE, step 6 (R170). -/
def deadlineStep (s : State) : Out :=
  match s.deadline with
  | some d =>
    if deadlinePassed s.nowAnswer d then .next (s.readClock.finish .timeout)
    else .next (s.readClock.goto (.eng .pollRead))
  | none => .fault .inconsistent

/-- Fill without an access. -/
def silentFillStep (s : State) : FillPoint → Out
  | .sample => pumpEnd s .deadline
  | .load => loadStep s
  | .push _ => .fault .inconsistent

/-- Drain without an access. -/
def silentDrainStep (s : State) (label : DrainPoint → Label) (done : Label) : DrainPoint → Out
  | .sample => pumpEnd s done
  | .pop => .fault .inconsistent
  | .store b => storeStep s b (label .sample)

/-- The entry without an access. -/
def silentEntryStep (s : State) : EntryPoint → Out
  | .clearControl => .fault .inconsistent
  | .clearStatus => .fault .inconsistent
  | .address => .fault .inconsistent
  | .dataLength => .fault .inconsistent
  | .start => .fault .inconsistent
  | .clock => entryClockStep s

/-- The engine without an access. -/
def silentEngineStep (s : State) : Label → Out
  | .validate => validateStep s
  | .entry p => silentEntryStep s p
  | .pollRead => .fault .inconsistent
  | .classify w => classifyStep s w
  | .fill p => silentFillStep s p
  | .drain p => silentDrainStep s .drain .deadline p
  | .doneDrain p => silentDrainStep s .doneDrain .doneRecheck p
  | .doneRecheck => .fault .inconsistent
  | .deadline => deadlineStep s
  | .exit _ => .fault .inconsistent

/-- What the block does at a label that makes no register access. An idle block waits for a host command
(70_reset_and_hazards.md R281). -/
def silentStep (s : State) : Out :=
  match s.loc with
  | .idle => .next s
  | .bc _ => .fault .inconsistent
  | .seq => seqStep s
  | .eng l => silentEngineStep s l

end Sys2Proof.Machine
end

