-- ==== Sys2Proof/Machine/Run.lean ====
section
/-! DEFINITION. Run: how a step fetches, decodes and runs (log entries 12 and 16). A step first looks at
what the host does; a command it issues is decoded and run. Otherwise the block goes on: the descriptor its
procedure emits at `loc` is decoded and run, and `loc` moves on; or the label makes no access. -/

namespace Sys2Proof.Machine

/-- Runs an emitted descriptor (30_encoding.md R107), then moves `loc` on. -/
def accessStep (d : Descriptor) (s : State) : Out :=
  match decodeAccess d with
  | none => .fault .illegalAccess
  | some i =>
    match exec i s with
    | .next t => afterAccess t (descriptorData d)
    | .fault f => .fault f
    | .refused r => .refused r

/-- One step of the block itself: at most one event (00_scope.md R15). -/
def blockStep (s : State) : Out :=
  match accessAt s with
  | some d => accessStep d s
  | none => silentStep s

/-- The host issues a command word: it is run, or it spells no command and is refused (30_encoding.md
R103). -/
def issueStep (w : Word) (ops : OperandRecord) (s : State) : Out :=
  match decodeCommand w ops with
  | none => .next (s.refuse .unknownCommand)
  | some i => exec i s

/-- The host's script is one entry further. -/
def State.hostDone (s : State) (rest : List HostAct) : State := { s with host := rest }

/-- The host writes a byte of its own memory, between commands (20_memory.md R64). -/
def State.hostStore (s : State) (a : Nat) (b : Byte) : State := { s with mem := s.mem.write a b }

/-- One step of the machine. -/
def machineStep (s : State) : Out :=
  match s.host with
  | [] => blockStep s
  | .pass :: rest => blockStep (s.hostDone rest)
  | .issue w ops :: rest => issueStep w ops (s.hostDone rest)
  | .await :: rest => if s.loc.isIdle then .next (s.hostDone rest) else blockStep s
  | .store a b :: rest =>
    if s.loc.isIdle then .next ((s.hostDone rest).hostStore a b) else blockStep s

/-! ### Placing an instruction where the next step fetches it -/

/-- A message that names the given address, length and direction, at buffer address 0. -/
def placedMessage (chipAddress length : Nat) (direction : Direction) : Message :=
  { chipAddress := chipAddress, direction := direction, buffer := { base := 0, size := length },
    length := length }

/-- The state at an engine label with a message, one byte still to move, before which the device will
answer as `device` says. -/
def State.placeEngine (s : State) (l : Label) (m : Message) (device : List Word) : State :=
  { s with loc := .eng l, m := some m, cur := some { remaining := 1, position := 0 },
           device := device, host := .pass :: s.host }

/-- The state at an event of the Bus Controller. -/
def State.placeBc (s : State) (p : BcPoint) : State :=
  { s with loc := .bc p, host := .pass :: s.host }

/-- The state in which the block's procedure emits the access next. A command is no access. -/
def State.placeAccess (s : State) : Instr → State
  | .init _ => s
  | .setSpeed _ => s
  | .probe _ => s
  | .xfer _ => s
  | .rdS v => s.placeEngine .pollRead (placedMessage 0 1 .read) (v :: s.device)
  | .rdFifo v => s.placeEngine (.drain .pop) (placedMessage 0 1 .read) (v :: s.device)
  | .wrCClear => s.placeEngine (.entry .clearControl) (placedMessage 0 1 .write) s.device
  | .wrCStartW => s.placeEngine (.entry .start) (placedMessage 0 1 .write) s.device
  | .wrCStartR => s.placeEngine (.entry .start) (placedMessage 0 1 .read) s.device
  | .wrSClear => s.placeEngine (.entry .clearStatus) (placedMessage 0 1 .write) s.device
  | .wrDlen n => s.placeEngine (.entry .dataLength) (placedMessage 0 n .write) s.device
  | .wrA a => s.placeEngine (.entry .address) (placedMessage a 1 .write) s.device
  | .wrFifo b => s.placeEngine (.fill (.push b)) (placedMessage 0 1 .write) s.device
  | .wrDivFast => s.placeBc (.initDiv Config.speedFast)
  | .wrDivStd => s.placeBc (.initDiv Config.speedStd)
  | .wrClkt => s.placeBc (.initClkt Config.speedStd)

/-- A command word is issued by the host in the next step; a descriptor's access is the one the block's
procedure emits in the next step; an illegal descriptor is emitted by no procedure (30_encoding.md R106). -/
def State.placeCode (s : State) : Code → State
  | .command w ops => { s with host := .issue w ops :: s.host }
  | .access d =>
    match decodeAccess d with
    | some i => s.placeAccess i
    | none => s

/-- An opcode-table word, placed. -/
def State.placeTableWord (s : State) (nbits w : Nat) : State :=
  match tableCode nbits w with
  | some c => s.placeCode c
  | none => s

end Sys2Proof.Machine
end

