-- ==== Sys2Proof/Safety.lean ====
section
/-! DEFINITION. Safety: what counts as a good state and a good trace, in the terms the claims use. -/

namespace Sys2Proof.Machine

/-- n steps, stopping at a fault or a refusal. -/
def runSteps : Nat → State → Out
  | 0, s => .next s
  | n + 1, s =>
    match step s with
    | .next t => runSteps n t
    | .fault f => .fault f
    | .refused r => .refused r

/-! ### Where the block stands -/

/-- No engine run: IDLE, no cursor, no deadline (10_state.md R22, R23, R24). -/
def EngineResting (s : State) : Prop :=
  s.phase = .idle ∧ s.cur = none ∧ s.deadline = none

/-- No engine run, and no message or caller of one. -/
def EngineFree (s : State) : Prop :=
  EngineResting s ∧ s.m = none ∧ s.caller = none

/-- The Sequencer holds nothing. -/
def SequencerFree (s : State) : Prop := s.seq = [] ∧ s.idx = 0

/-- The quiescent state between commands (10_state.md R46). -/
def Quiescent (s : State) : Prop :=
  s.loc = .idle ∧ EngineFree s ∧ SequencerFree s ∧ s.r = none

/-- A command that admission lets through finds this (70_reset_and_hazards.md R286, 20_memory.md R56). -/
def Ready (s : State) : Prop := Quiescent s ∧ s.handle.base % 4 = 0 ∧ s.host = []

/-- The engine runs message m for its caller: the Sequencer's message i, or a probe's. -/
def EngineHas (s : State) (m : Message) : Prop :=
  s.m = some m ∧ messageWf m = true ∧ s.handle.initialized = true ∧
    ((s.caller = some .sequencer ∧ s.seq[s.idx]? = some m) ∨
     (s.caller = some .probe ∧ SequencerFree s ∧ m = probeMessage m.chipAddress))

/-- The cursor of R23 on message m. -/
def CursorOn (s : State) (m : Message) (c : Cursor) : Prop :=
  s.cur = some c ∧ c.position + c.remaining = m.length

/-- The engine polls message m: it is past its entry and before its exit (R162, R172). -/
def Polling (s : State) (m : Message) (c : Cursor) : Prop :=
  EngineHas s m ∧ addressValid m.chipAddress = true ∧ CursorOn s m c ∧ s.deadline.isSome = true ∧
    s.phase = .activePoll ∧ s.r = none

/-- What a label of the poll loop adds. -/
def PollLabelOk (m : Message) (c : Cursor) : Label → Prop
  | .validate => False
  | .entry _ => False
  | .pollRead => True
  | .classify _ => True
  | .fill .sample => True
  | .fill .load => c.remaining ≠ 0
  | .fill (.push _) => c.remaining ≠ 0
  | .drain .sample => True
  | .drain .pop => c.remaining ≠ 0
  | .drain (.store _) => c.remaining ≠ 0
  | .doneDrain .sample => m.direction = .read
  | .doneDrain .pop => m.direction = .read ∧ c.remaining ≠ 0
  | .doneDrain (.store _) => m.direction = .read ∧ c.remaining ≠ 0
  | .doneRecheck => m.direction = .read
  | .deadline => True
  | .exit _ => False

/-- What holds at each label of the engine. -/
def EngineLabelOk (s : State) (l : Label) : Prop :=
  match l with
  | .validate => EngineResting s ∧ s.r = none ∧ ∃ m, EngineHas s m
  | .entry _ =>
    EngineResting s ∧ s.r = none ∧ ∃ m, EngineHas s m ∧ addressValid m.chipAddress = true
  | .exit _ =>
    s.phase = .complete ∧ s.r.isSome = true ∧ s.deadline.isSome = true ∧
      ∃ m c, EngineHas s m ∧ CursorOn s m c
  | l => ∃ m c, Polling s m c ∧ PollLabelOk m c l

/-- What holds at each label of `loc` (10_state.md R20 to R28, R46). What it says of `r` at `.seq` and in a
probe's re-init is the model's choice (log entry 21). -/
def LocOk (s : State) : Prop :=
  match s.loc with
  | .idle => EngineFree s ∧ SequencerFree s ∧ s.r = none
  | .bc .probeClkt => EngineFree s ∧ SequencerFree s ∧ s.r.isSome = true ∧ s.handle.initialized = true
  | .bc .probeDiv => EngineFree s ∧ SequencerFree s ∧ s.r.isSome = true ∧ s.handle.initialized = true
  | .bc _ => EngineFree s ∧ SequencerFree s ∧ s.r = none
  | .seq => EngineFree s ∧ s.r = none ∧ s.handle.initialized = true
  | .eng l => EngineLabelOk s l

/-- The handle records a preset, both fields of one, or nothing yet (10_state.md R21, 30_encoding.md R93);
an initialized handle records one. -/
def HandleOk (h : Handle) : Prop :=
  ((h.lastDivider = none ∧ h.lastSpeed = none) ∨
   (h.lastDivider = some 1500 ∧ h.lastSpeed = some 400000) ∨
   (h.lastDivider = some 6000 ∧ h.lastSpeed = some 100000)) ∧
  (h.initialized = true → h.lastDivider.isSome = true)

/-- The event is no register access, or one of the twelve kinds (30_encoding.md R105, R106). -/
def legalEvent (e : Event) : Bool :=
  match e.descriptor? with
  | none => true
  | some d => (decodeAccess d).isSome

/-- Every access of the trace is one of the twelve kinds (40_register_interface.md R134). -/
def TraceOk (s : State) : Prop := ∀ e ∈ s.events, legalEvent e = true

/-- Every message the Sequencer holds is well formed (10_state.md R44, 44_message_sequencer.md R225). -/
def SeqOk (s : State) : Prop := ∀ m ∈ s.seq, messageWf m = true

/-- A command runs only on an aligned base (20_memory.md R56). -/
def AlignOk (s : State) : Prop := s.loc ≠ .idle → s.handle.base % 4 = 0

/-- The good states: what a run from reset keeps. -/
structure Inv (s : State) : Prop where
  mem    : s.mem.wf = true
  loc    : LocOk s
  handle : HandleOk s.handle
  trace  : TraceOk s
  seq    : SeqOk s
  align  : AlignOk s

/-! ### The pump's fresh status value -/

/-- The last register access made. -/
def lastAccess (s : State) : Option Event := s.trace.getLast?

/-- The last register access is a status read that shows the flag, and a byte may be moved. -/
def FreshSample (s : State) (flag : Word → Bool) : Prop :=
  (∃ t, lastAccess s = some (.read .s t) ∧ flag t = true) ∧
    ∃ c, s.cur = some c ∧ c.remaining ≠ 0

/-- A point of the pump that moves a byte stands right after a status read that showed its flag
(40_register_interface.md R123, R130; 43_fifo_pump.md R202, R207). -/
def SampleOk (s : State) : Prop :=
  match s.loc with
  | .eng (.fill .load) => FreshSample s statusTxd
  | .eng (.fill (.push _)) => FreshSample s statusTxd
  | .eng (.drain .pop) => FreshSample s statusRxd
  | .eng (.doneDrain .pop) => FreshSample s statusRxd
  | _ => True

/-! ### The controller's idle state -/

/-- READ, START and I2CEN are 0 in a control word (10_state.md R31). -/
def controlOff (w : Word) : Prop :=
  w.getLsbD 0 = false ∧ w.getLsbD 7 = false ∧ w.getLsbD 15 = false

/-- The engine stands between its start write and its first exit write. -/
def betweenStartAndExit : Loc → Bool
  | .idle => false
  | .bc _ => false
  | .seq => false
  | .eng .validate => false
  | .eng (.entry .clock) => true
  | .eng (.entry _) => false
  | .eng (.exit .clearStatus) => false
  | .eng _ => true

/-- Outside an engine's run the last control word written is off (60_exceptions.md R250, R261). -/
def CleanOk (s : State) : Prop :=
  betweenStartAndExit s.loc = false → controlOff s.port.c

/-! ### Expected traces -/

/-- The five entry writes of a message (42_transfer_engine.md R162), with the words written out. -/
def entryEvents (m : Message) : List Event :=
  [.write .c 0x00000030, .write .s 0x00000302, .write .a (BitVec.ofNat 32 m.chipAddress),
   .write .dlen (BitVec.ofNat 32 m.length),
   .write .c (match m.direction with | .read => 0x00008081 | .write => 0x00008080)]

/-- The two exit writes (R172). -/
def exitEvents : List Event := [.write .c 0x00000030, .write .s 0x00000302]

/-- The two writes of a probe's re-init (41_bus_controller.md R148). -/
def reinitEvents : List Event := [.write .clkt 0x00000000, .write .div 0x00001770]

/-- The port after the five entry writes. -/
def entryPort (p : Port) (m : Message) : Port :=
  { p with c := (match m.direction with | .read => 0x00008081 | .write => 0x00008080),
           s := 0x00000302, a := BitVec.ofNat 32 m.chipAddress, dlen := BitVec.ofNat 32 m.length }

/-- The events of a Fill that moves the bytes of buffer m from index p on, the status reads answered by
`ts` (43_fifo_pump.md R200). -/
def fillEvents (mem : Memory) (m : Message) : Nat → List Word → List Event
  | _, [] => []
  | p, t :: ts =>
    .read .s t :: .bufRead p (mem.read (m.buffer.base + p)) ::
      .write .fifo (BitVec.setWidth 32 (mem.read (m.buffer.base + p))) :: fillEvents mem m (p + 1) ts

/-- The events of a Drain that stores a byte per pair (status, FIFO word), from index p on (R205). -/
def drainEvents : Nat → List (Word × Word) → List Event
  | _, [] => []
  | p, (t, w) :: rest =>
    .read .s t :: .read .fifo w :: .bufWrite p (BitVec.setWidth 8 w) :: drainEvents (p + 1) rest

/-- The answers a Drain of these pairs consumes. -/
def drainAnswers : List (Word × Word) → List Word
  | [] => []
  | (t, w) :: rest => t :: w :: drainAnswers rest

end Sys2Proof.Machine
end

