-- ==== Sys2Proof/Certificates/Slice0/Obligations.lean ====
section
/-! DEFINITION. The statements for the provers. Words the rules give are written out here as numbers, so that
a statement does not lean on the model's constants. -/

open Sys2Proof Sys2Proof.Machine

/-! ### Reset -/

/-- 10_state.md R42: the block's state when its handle is created. -/
def Obligations.ResetIsFreshHandle : Prop :=
  State.reset.handle.base = Config.base ∧ State.reset.handle.lastDivider = none ∧
  State.reset.handle.lastSpeed = none ∧ State.reset.handle.initialized = false ∧
  State.reset.phase = .idle ∧ State.reset.cur = none ∧ State.reset.deadline = none ∧
  State.reset.m = none ∧ State.reset.r = none ∧ State.reset.loc = .idle ∧
  State.reset.seq = [] ∧ State.reset.idx = 0 ∧ State.reset.refused = false

/-- The state right after reset meets the invariants below. That the last control word is off at reset rests
on the model's reset value of the port (log entry 10). -/
def Obligations.ResetMeetsTheInvariants : Prop :=
  Inv State.reset ∧ SampleOk State.reset ∧ CleanOk State.reset

/-! ### Encoding -/

/-- 30_encoding.md R101: the four command words. -/
def Obligations.CommandWordsDecode : Prop :=
  ∀ ops : OperandRecord,
    decodeCommand 0x00000001 ops = some (.init ops.speedHz) ∧
    decodeCommand 0x00000002 ops = some (.setSpeed ops.speedHz) ∧
    decodeCommand 0x00000003 ops = some (.probe ops.chipAddress) ∧
    decodeCommand 0x00000004 ops = some (.xfer ops.messages)

/-- Words written out from the table of 30_encoding.md R105, bit by bit: W, IDX, DATA. -/
def Obligations.AccessWordsDecode : Prop :=
  decodeAccess 0b000100000000000000000000000000010101 = some (.rdS 0x15) ∧
  decodeAccess 0b010000000000000000000000000001011010 = some (.rdFifo 0x5A) ∧
  decodeAccess 0b100000000000000000000000000000110000 = some .wrCClear ∧
  decodeAccess 0b100000000000000000001000000010000000 = some .wrCStartW ∧
  decodeAccess 0b100000000000000000001000000010000001 = some .wrCStartR ∧
  decodeAccess 0b100100000000000000000000001100000010 = some .wrSClear ∧
  decodeAccess 0b101000000000000000001111111111111111 = some (.wrDlen 65535) ∧
  decodeAccess 0b101100000000000000000000000001111111 = some (.wrA 127) ∧
  decodeAccess 0b110000000000000000000000000010101010 = some (.wrFifo 0xAA) ∧
  decodeAccess 0b110100000000000000000000010111011100 = some .wrDivFast ∧
  decodeAccess 0b110100000000000000000001011101110000 = some .wrDivStd ∧
  decodeAccess 0b111100000000000000000000000000000000 = some .wrClkt

/-- 30_encoding.md R103: a reserved command word, in every state, is refused: it sets `refused`, and
nothing else of the machine changes but the model's list of reasons and the host's script. (Model's own:
the script and the list of reasons, log entries 12 and 14.) -/
def Obligations.ReservedCommandWordIsRefused : Prop :=
  ∀ (s : State) (w : Word) (ops : OperandRecord) (rest : List HostAct),
    s.host = .issue w ops :: rest →
    ((w.extractLsb' 0 4).toNat = 0 ∨ 5 ≤ (w.extractLsb' 0 4).toNat ∨ w.extractLsb' 4 28 ≠ 0) →
    step s = .next { s with host := rest, refused := true,
                            refusals := s.refusals ++ [.unknownCommand] }

/-- 30_encoding.md R106: the descriptors the block never emits decode to nothing. -/
def Obligations.IllegalDescriptorsDecodeToNothing : Prop :=
  (∀ d : Descriptor, d.extractLsb' 32 3 = 6 → decodeAccess d = none) ∧
  (∀ (r : Reg) (v : Word), r ≠ .s → r ≠ .fifo → decodeAccess (readDescriptor r v) = none) ∧
  (∀ v : Word, v ≠ 0x00000030 → v ≠ 0x00008080 → v ≠ 0x00008081 →
    decodeAccess (writeDescriptor .c v) = none) ∧
  (∀ v : Word, v ≠ 0x00000302 → decodeAccess (writeDescriptor .s v) = none) ∧
  (∀ v : Word, 0x10000 ≤ v.toNat → decodeAccess (writeDescriptor .dlen v) = none) ∧
  (∀ v : Word, 0x80 ≤ v.toNat → decodeAccess (writeDescriptor .a v) = none) ∧
  (∀ v : Word, 0x100 ≤ v.toNat → decodeAccess (writeDescriptor .fifo v) = none) ∧
  (∀ v : Word, v ≠ 1500 → v ≠ 6000 → decodeAccess (writeDescriptor .div v) = none) ∧
  (∀ v : Word, v ≠ 0 → decodeAccess (writeDescriptor .clkt v) = none)

/-- 30_encoding.md R107: the rows do not overlap, so their order does not matter. -/
def Obligations.AccessRowsDoNotOverlap : Prop :=
  ∀ (d : Descriptor) (i j : Fin 12),
    (accessRows[i.val]?.any fun row => row.fits d) = true →
    (accessRows[j.val]?.any fun row => row.fits d) = true → i = j

/-- Decoding the words of every well-formed instruction gives it back. -/
def Obligations.EncodeThenDecodeIsIdentity : Prop :=
  ∀ i : Instr, i.wf = true → decode (encode i) = some i

/-- Every legal descriptor is the encoding of the instruction it decodes to, and every command word that
decodes is that command's word: no bit of either is dropped. -/
def Obligations.DecodeThenEncodeIsIdentity : Prop :=
  (∀ (d : Descriptor) (i : Instr), decodeAccess d = some i → i.wf = true ∧ encode i = .access d) ∧
  (∀ (w : Word) (ops : OperandRecord) (i : Instr), decodeCommand w ops = some i →
    i.wf = true ∧ ∃ ops', encode i = .command w ops')

/-! ### A step runs the decoded instruction -/

/-- A command the host issues: the step is `exec` of the decoded command, after the script has moved on.
(Model's own: log entries 12 and 16.) -/
def Obligations.StepRunsTheIssuedCommand : Prop :=
  ∀ (s : State) (w : Word) (ops : OperandRecord) (rest : List HostAct) (i : Instr),
    s.host = .issue w ops :: rest → decodeCommand w ops = some i →
    step s = exec i { s with host := rest }

/-- A descriptor the running procedure emits at `loc`: the step is `exec` of the decoded access, then
`loc` moves on with the DATA of the descriptor. A label that emits none takes its silent step. (Model's
own: log entries 1, 12 and 16.) -/
def Obligations.StepRunsTheEmittedAccess : Prop :=
  (∀ (s t : State) (d : Descriptor) (i : Instr), s.host = [] → accessAt s = some d →
    decodeAccess d = some i → exec i s = .next t → step s = afterAccess t (d.extractLsb' 0 32)) ∧
  (∀ (s : State), s.host = [] → accessAt s = none → step s = silentStep s) ∧
  (∀ (s : State) (rest : List HostAct), s.host = .pass :: rest →
    step s = blockStep { s with host := rest })

/-! ### The register accesses -/

/-- 40_register_interface.md R122, R123: a read is one event with the device's answer, whatever it is, and
changes no block state. `device` is the model's list of answers to come (log entry 5). -/
def Obligations.ReadsComplete : Prop :=
  ∀ (s : State) (v : Word),
    exec (.rdS v) s = .next { s with events := s.events ++ [.read .s v], device := s.device.tail } ∧
    exec (.rdFifo v) s = .next { s with events := s.events ++ [.read .fifo v], device := s.device.tail }

/-- 40_register_interface.md R124 to R127: the control and status writes. (`port` keeps the word written:
log entry 10.) -/
def Obligations.ControlAndStatusWritesComplete : Prop :=
  ∀ s : State,
    exec .wrCClear s = .next { s with events := s.events ++ [.write .c 0x00000030],
                                      port := { s.port with c := 0x00000030 } } ∧
    exec .wrCStartW s = .next { s with events := s.events ++ [.write .c 0x00008080],
                                       port := { s.port with c := 0x00008080 } } ∧
    exec .wrCStartR s = .next { s with events := s.events ++ [.write .c 0x00008081],
                                       port := { s.port with c := 0x00008081 } } ∧
    exec .wrSClear s = .next { s with events := s.events ++ [.write .s 0x00000302],
                                      port := { s.port with s := 0x00000302 } }

/-- 40_register_interface.md R128 to R133: the writes that carry an operand, and the fixed configuration
words. The word's value is the operand. (`port` keeps the word written: log entry 10.) -/
def Obligations.ConfigurationWritesComplete : Prop :=
  ∀ s : State,
    (∀ n, n ≤ 0xFFFF → ∃ w : Word, w.toNat = n ∧
      exec (.wrDlen n) s = .next { s with events := s.events ++ [.write .dlen w],
                                          port := { s.port with dlen := w } }) ∧
    (∀ a, a ≤ 0x7F → ∃ w : Word, w.toNat = a ∧
      exec (.wrA a) s = .next { s with events := s.events ++ [.write .a w],
                                       port := { s.port with a := w } }) ∧
    (∀ b : Byte, ∃ w : Word, w.toNat = b.toNat ∧
      exec (.wrFifo b) s = .next { s with events := s.events ++ [.write .fifo w],
                                          port := { s.port with fifo := w } }) ∧
    exec .wrDivFast s = .next { s with events := s.events ++ [.write .div 1500],
                                       port := { s.port with div := 1500 } } ∧
    exec .wrDivStd s = .next { s with events := s.events ++ [.write .div 6000],
                                      port := { s.port with div := 6000 } } ∧
    exec .wrClkt s = .next { s with events := s.events ++ [.write .clkt 0],
                                    port := { s.port with clkt := 0 } }

/-- 40_register_interface.md R134 for every access instruction: exactly one event, which is the register
access its own encoding names, and nothing of the block changes: no field of R20, no byte of memory, no
return. (`port` keeps the word written: log entry 10.) -/
def Obligations.EveryAccessIsOneEventAndNoBlockState : Prop :=
  ∀ (i : Instr) (s : State) (d : Descriptor), i.wf = true → encode i = .access d →
    ∃ t e, exec i s = .next t ∧ t.events = s.events ++ [e] ∧ e.descriptor? = some d ∧
      t.handle = s.handle ∧ t.phase = s.phase ∧ t.cur = s.cur ∧ t.deadline = s.deadline ∧
      t.loc = s.loc ∧ t.seq = s.seq ∧ t.idx = s.idx ∧ t.m = s.m ∧ t.r = s.r ∧
      t.refused = s.refused ∧ t.caller = s.caller ∧ t.returns = s.returns ∧
      t.refusals = s.refusals ∧ t.host = s.host ∧ t.clock = s.clock ∧ t.ticks = s.ticks ∧
      (∀ a, t.mem.read a = s.mem.read a) ∧
      (∀ r, t.port.get r = s.port.get r ∨ ∃ v, e = .write r v ∧ t.port.get r = v)

/-! ### INIT, SETSPEED, PROBE -/

/-- 70_reset_and_hazards.md R286; 41_bus_controller.md R140, R144, R146; 44_message_sequencer.md R220: a
quiescent block on an aligned base admits each of the four commands (PROBE and XFER once `initialized`, XFER
with well-formed messages only): the command stands at its first label, and nothing else differs. INIT and
SETSPEED stand before their first write, PROBE before the engine's address check on a zero-length Write, XFER
before message 0. (The labels: log entries 2 to 4.) -/
def Obligations.CommandsStartWhenAdmitted : Prop :=
  ∀ s : State, Ready s →
    (∀ v, exec (.init v) s = .next { s with loc := .bc (.initClkt v) }) ∧
    (∀ v, exec (.setSpeed v) s = .next { s with loc := .bc (.setSpeedDiv v) }) ∧
    (∀ a, s.handle.initialized = true →
      exec (.probe a) s = .next { s with
        m := some { chipAddress := a, direction := .write, buffer := { base := 0, size := 0 },
                    length := 0 },
        caller := some .probe, loc := .eng .validate }) ∧
    (∀ ms : List Message, s.handle.initialized = true →
      (∀ m ∈ ms, m.length = m.buffer.size ∧ m.length ≤ 0xFFFF) →
      exec (.xfer ms) s = .next { s with seq := ms, idx := 0, loc := .seq })

/-- 41_bus_controller.md R140, R141: INIT starts, and two steps later it has written CLKT and then DIV,
recorded the preset, set `initialized`, and returned `Ok(())`; nothing else differs. (One event a step:
log entry 1; `port`: log entry 10.) -/
def Obligations.InitWritesClktThenDivAndReturns : Prop :=
  ∀ (s : State) (speedHz : Nat), Ready s →
    ∃ t, exec (.init speedHz) s = .next t ∧
      runSteps 2 t = .next { s with
        handle := { s.handle with
          lastDivider := some (if speedHz = 400000 then 1500 else 6000),
          lastSpeed := some (if speedHz = 400000 then 400000 else 100000),
          initialized := true },
        port := { s.port with clkt := 0, div := if speedHz = 400000 then 1500 else 6000 },
        events := s.events ++ [.write .clkt 0, .write .div (if speedHz = 400000 then 1500 else 6000)],
        returns := s.returns ++ [.okUnit] }

/-- 41_bus_controller.md R144, R145: SETSPEED starts, and one step later it has written DIV alone,
recorded the preset, and returned `Ok(())`; `initialized` is as it was. (One event a step: log entry 1.) -/
def Obligations.SetSpeedWritesDivAndReturns : Prop :=
  ∀ (s : State) (speedHz : Nat), Ready s →
    ∃ t, exec (.setSpeed speedHz) s = .next t ∧
      runSteps 1 t = .next { s with
        handle := { s.handle with
          lastDivider := some (if speedHz = 400000 then 1500 else 6000),
          lastSpeed := some (if speedHz = 400000 then 400000 else 100000) },
        port := { s.port with div := if speedHz = 400000 then 1500 else 6000 },
        events := s.events ++ [.write .div (if speedHz = 400000 then 1500 else 6000)],
        returns := s.returns ++ [.okUnit] }

/-- 41_bus_controller.md R146 to R148, R151: a probe whose first status read decides. It starts, and 13
steps later it has made the entry writes of a zero-length Write, one clock read, one status read, the exit
writes and the re-init, and has returned what R147 maps the result to; the bus is at the standard speed.
(The number of steps: log entries 1 and 2; the answers: log entries 5 and 6.) -/
def Obligations.ProbeDecidedByItsFirstStatusRead : Prop :=
  ∀ (s : State) (a t0 : Nat) (w : Word), Ready s → s.handle.initialized = true → a ≤ 0x7F →
    ({ s with events := s.events ++ entryEvents (probeMessage a) } : State).nowAnswer = t0 →
    ({ s with events := s.events ++ entryEvents (probeMessage a) ++ [.now t0] } : State).answer .s = w →
    (w.getLsbD 9 = true ∨ (w.getLsbD 8 = true ∧ w.getLsbD 0 = false) ∨ w.getLsbD 1 = true ∨
      w.getLsbD 2 = true ∨ w.getLsbD 3 = true) →
    ∃ t, exec (.probe a) s = .next t ∧
      runSteps 13 t = .next { s with
        handle := { s.handle with lastDivider := some 6000, lastSpeed := some 100000 },
        port := { s.port with c := 0x00000030, s := 0x00000302, a := BitVec.ofNat 32 a, dlen := 0,
                              clkt := 0, div := 6000 },
        events := s.events ++ entryEvents (probeMessage a) ++ [.now t0, .read .s w] ++ exitEvents ++
          reinitEvents,
        returns := s.returns ++
          [if w.getLsbD 9 = true then .err .clockStretchTimeout
           else if w.getLsbD 8 = true ∧ w.getLsbD 0 = false then .okBool false
           else if w.getLsbD 1 = true then .okBool true
           else .err .lengthMismatch],
        device := s.device.tail, clock := t0, ticks := s.ticks.tail }

/-- 41_bus_controller.md R150: a probe of an invalid address makes only the re-init and returns
`Err(InvalidAddress)`. (The number of steps: log entry 1.) -/
def Obligations.ProbeOfInvalidAddressOnlyReinits : Prop :=
  ∀ (s : State) (a : Nat), Ready s → s.handle.initialized = true → 0x7F < a →
    ∃ t, exec (.probe a) s = .next t ∧
      runSteps 3 t = .next { s with
        handle := { s.handle with lastDivider := some 6000, lastSpeed := some 100000 },
        port := { s.port with clkt := 0, div := 6000 },
        events := s.events ++ reinitEvents,
        returns := s.returns ++ [.err .invalidAddress] }

/-- 41_bus_controller.md R147, R148: whatever the engine's result, the probe's last two events are the
re-init, and what it returns is R147's mapping of the result. (The number of steps: log entry 1; that `r`
holds the result through the re-init is the model's choice: log entry 21.) -/
def Obligations.ProbeReinitsOnEveryResult : Prop :=
  ∀ (s : State) (res : Result), s.loc = .bc .probeClkt → s.host = [] → s.r = some res →
    ∃ t, runSteps 2 s = .next t ∧ t.events = s.events ++ reinitEvents ∧
      t.handle = { s.handle with lastDivider := some 6000, lastSpeed := some 100000,
                                 initialized := true } ∧
      Quiescent t ∧ t.mem = s.mem ∧
      (res = .ok → t.returns = s.returns ++ [.okBool true]) ∧
      (res = .busError → t.returns = s.returns ++ [.okBool false]) ∧
      (res ≠ .ok → res ≠ .busError → t.returns = s.returns ++ [.err res])

/-! ### XFER -/

/-- 44_message_sequencer.md R220, R221, R223: an admitted XFER starts at message 0; at `SEQ(i)` the engine
is invoked on message i, or, when no message is left, `Ok(())` is returned with no event. (Model's own:
`idx` and `caller`, log entries 3 and 4.) -/
def Obligations.XferRunsMessagesInListOrder : Prop :=
  (∀ (s : State) (ms : List Message), Ready s → s.handle.initialized = true →
    (∀ m ∈ ms, m.length = m.buffer.size ∧ m.length ≤ 0xFFFF) →
    exec (.xfer ms) s = .next { s with seq := ms, idx := 0, loc := .seq }) ∧
  (∀ (s : State) (i : Nat) (m : Message), s.loc = .seq → s.host = [] → s.idx = i →
    s.seq[i]? = some m →
    step s = .next { s with m := some m, caller := some .sequencer, loc := .eng .validate }) ∧
  (∀ (s : State) (ms : List Message), s.loc = .seq → s.host = [] → s.seq = ms → s.idx = ms.length →
    ∃ t, step s = .next t ∧ Quiescent t ∧ t.events = s.events ∧ t.mem = s.mem ∧ t.port = s.port ∧
      t.handle = s.handle ∧ t.returns = s.returns ++ [.okUnit])

/-- 44_message_sequencer.md R223: an empty XFER returns `Ok(())` with no access and no clock read. (The
number of steps: log entry 1.) -/
def Obligations.EmptyXferReturnsOk : Prop :=
  ∀ s : State, Ready s → s.handle.initialized = true →
    ∃ t, exec (.xfer []) s = .next t ∧
      runSteps 1 t = .next { s with returns := s.returns ++ [.okUnit] }

/-- A whole Write message of any length but 0, filled in one Fill call (43_fifo_pump.md R200, R211;
42_transfer_engine.md R160), under a device that wants data, has space for every byte, and is then done,
and a clock that stays within the deadline: the XFER returns `Ok(())` after exactly the bytes of the
buffer have gone to the FIFO in index order, and memory is unchanged. (The number of steps: log entries 1
and 2; `device` and `ticks`: log entries 5 and 6.) -/
def Obligations.WriteMessageSendsItsBuffer : Prop :=
  ∀ (s : State) (m : Message) (w1 wd : Word) (ts rest : List Word) (a b : Nat) (more : List Nat),
    Ready s → s.handle.initialized = true → m.direction = .write → m.chipAddress ≤ 0x7F →
    m.length = m.buffer.size → m.length ≤ 0xFFFF → 0 < m.length →
    s.device = w1 :: (ts ++ wd :: rest) → s.ticks = a :: b :: more → b ≤ 100 →
    w1.getLsbD 9 = false → w1.getLsbD 8 = false → w1.getLsbD 1 = false → w1.getLsbD 2 = true →
    ts.length = m.length → (∀ t ∈ ts, t.getLsbD 4 = true) →
    wd.getLsbD 9 = false → wd.getLsbD 8 = false → wd.getLsbD 1 = true →
    ∃ t u, exec (.xfer [m]) s = .next t ∧ runSteps (17 + 3 * m.length) t = .next u ∧
      Quiescent u ∧ u.returns = s.returns ++ [.okUnit] ∧
      u.events = s.events ++ entryEvents m ++ [.now (s.clock + a), .read .s w1] ++
        fillEvents s.mem m 0 ts ++ [.now (s.clock + a + b), .read .s wd] ++ exitEvents ∧
      u.mem = s.mem ∧ u.handle = s.handle ∧ u.device = rest ∧ u.refused = s.refused

/-- A whole Read message of any length but 0, drained in one Drain call of the poll loop (43_fifo_pump.md
R205; 42_transfer_engine.md R166), under a device that has data for every byte and is then done with
nothing left, and a clock within the deadline: the XFER returns `Ok(())`, byte i of the buffer is the low
byte of the i-th FIFO word, and every other byte of memory is unchanged. (The number of steps: log entries
1 and 2; `device` and `ticks`: log entries 5 and 6.) -/
def Obligations.ReadMessageFillsItsBuffer : Prop :=
  ∀ (s : State) (m : Message) (w1 wd w2 : Word) (ps : List (Word × Word)) (rest : List Word)
    (a b : Nat) (more : List Nat),
    Ready s → s.handle.initialized = true → s.mem.wf = true → m.direction = .read →
    m.chipAddress ≤ 0x7F → m.length = m.buffer.size → m.length ≤ 0xFFFF → 0 < m.length →
    s.device = w1 :: (drainAnswers ps ++ wd :: w2 :: rest) → s.ticks = a :: b :: more → b ≤ 100 →
    w1.getLsbD 9 = false → w1.getLsbD 8 = false → w1.getLsbD 1 = false → w1.getLsbD 2 = false →
    w1.getLsbD 3 = true →
    ps.length = m.length → (∀ p ∈ ps, p.1.getLsbD 5 = true) →
    wd.getLsbD 9 = false → wd.getLsbD 8 = false → wd.getLsbD 1 = true → w2.getLsbD 5 = false →
    ∃ t u, exec (.xfer [m]) s = .next t ∧ runSteps (19 + 3 * m.length) t = .next u ∧
      Quiescent u ∧ u.returns = s.returns ++ [.okUnit] ∧
      u.events = s.events ++ entryEvents m ++ [.now (s.clock + a), .read .s w1] ++
        drainEvents 0 ps ++ [.now (s.clock + a + b), .read .s wd, .read .s w2] ++ exitEvents ∧
      (∀ i (p : Word × Word), ps[i]? = some p →
        u.mem.read (m.buffer.base + i) = BitVec.setWidth 8 p.2) ∧
      (∀ x, (x < m.buffer.base ∨ m.buffer.base + m.length ≤ x) → u.mem.read x = s.mem.read x)

/-! ### Refusals -/

/-- 60_exceptions.md R268, 70_reset_and_hazards.md R287: a command issued while another runs is refused:
`refused` is set, and the running command is as it was. (The list of reasons and which one is named first:
log entry 14.) -/
def Obligations.CommandsRefusedWhileOneRuns : Prop :=
  ∀ (s : State) (i : Instr) (w : Word) (ops : OperandRecord), s.loc ≠ .idle →
    encode i = .command w ops →
    exec i s = .next { s with refused := true, refusals := s.refusals ++ [.overlappingCommand] }

/-- 41_bus_controller.md R149, 44_message_sequencer.md R225(a): before `init`. (The list of reasons: log
entry 14.) -/
def Obligations.ProbeAndXferRefusedBeforeInit : Prop :=
  ∀ (s : State) (a : Nat) (ms : List Message), s.loc = .idle → s.handle.base % 4 = 0 →
    s.handle.initialized = false →
    exec (.probe a) s = .next { s with refused := true, refusals := s.refusals ++ [.probeBeforeInit] } ∧
    exec (.xfer ms) s = .next { s with refused := true,
                                       refusals := s.refusals ++ [.transferBeforeInit] }

/-- 44_message_sequencer.md R225(b), 10_state.md R44: one ill-formed message refuses the whole XFER. (The
list of reasons and which one is named first: log entry 14.) -/
def Obligations.IllFormedMessageRefusesXfer : Prop :=
  ∀ (s : State) (ms : List Message) (m : Message), s.loc = .idle → s.handle.base % 4 = 0 →
    s.handle.initialized = true → m ∈ ms → (m.length ≠ m.buffer.size ∨ 0xFFFF < m.length) →
    exec (.xfer ms) s = .next { s with refused := true, refusals := s.refusals ++ [.illFormedMessage] }

/-- 20_memory.md R56: with a misaligned base every command is refused. (The list of reasons and which one
is named first: log entry 14.) -/
def Obligations.MisalignedBaseRefusesCommands : Prop :=
  ∀ (s : State) (i : Instr) (w : Word) (ops : OperandRecord), s.loc = .idle → s.handle.base % 4 ≠ 0 →
    encode i = .command w ops →
    exec i s = .next { s with refused := true, refusals := s.refusals ++ [.misalignedBase] }

/-! ### The engine -/

/-- 42_transfer_engine.md R161: an invalid address ends the engine at VALIDATE, with no event; the
Sequencer returns `Err(InvalidAddress)`, a probe goes on to its re-init. (`caller`: log entry 4; that `r`
keeps the result for the probe is the model's choice: log entry 21.) -/
def Obligations.InvalidAddressEndsBeforeAnyAccess : Prop :=
  ∀ (s : State) (m : Message), s.loc = .eng .validate → s.host = [] → s.m = some m →
    0x7F < m.chipAddress → EngineResting s →
    (s.caller = some .sequencer → ∃ t, step s = .next t ∧ Quiescent t ∧ t.events = s.events ∧
      t.port = s.port ∧ t.mem = s.mem ∧ t.handle = s.handle ∧
      t.returns = s.returns ++ [.err .invalidAddress]) ∧
    (s.caller = some .probe → step s = .next { s with
      r := some .invalidAddress, m := none, caller := none, loc := .bc .probeClkt })

/-- 42_transfer_engine.md R161, R162: from VALIDATE, a message with a valid address passes the address check
and makes its entry: the five writes in order, the cursor, one clock read, the deadline, ACTIVE_POLL. (The
number of steps: log entries 1 and 2; `clock` and `ticks`: log entry 6; `port`: log entry 10.) -/
def Obligations.EntryWritesInOrder : Prop :=
  ∀ (s : State) (m : Message) (t0 : Nat), s.loc = .eng .validate → s.host = [] → s.m = some m →
    m.chipAddress ≤ 0x7F → m.length = m.buffer.size → m.length ≤ 0xFFFF →
    ({ s with events := s.events ++ entryEvents m } : State).nowAnswer = t0 →
    runSteps 7 s = .next { s with
      events := s.events ++ entryEvents m ++ [.now t0],
      port := entryPort s.port m,
      cur := some { remaining := m.length, position := 0 },
      deadline := some (t0 + 100), phase := .activePoll, loc := .eng .pollRead,
      clock := t0, ticks := s.ticks.tail }

/-- 42_transfer_engine.md R172, R173; 44_message_sequencer.md R220, R222; 60_exceptions.md R250, R251:
from `finish(r)` on, exactly the two exit writes, then cursor, deadline and message are released, the
phase is IDLE, and r goes to the caller: the Sequencer goes on after `Ok` and returns `Err(r)` otherwise,
a probe goes on to its re-init with r. (`caller`: log entry 4; the number of steps: log entry 1; that `r` is
cleared after an `Ok` message and kept for a probe is the model's choice: log entry 21.) -/
def Obligations.ExitWritesThenReturnsToTheCaller : Prop :=
  ∀ (s : State) (res : Result), s.loc = .eng (.exit .clearControl) → s.host = [] → s.r = some res →
    (s.caller = some .sequencer ∨ s.caller = some .probe) →
    ∃ t, runSteps 2 s = .next t ∧ t.events = s.events ++ exitEvents ∧
      t.port = { s.port with c := 0x00000030, s := 0x00000302 } ∧
      t.cur = none ∧ t.deadline = none ∧ t.m = none ∧ t.phase = .idle ∧ t.caller = none ∧
      t.mem = s.mem ∧ t.handle = s.handle ∧ t.refused = s.refused ∧
      (s.caller = some .sequencer → res = .ok →
        t.loc = .seq ∧ t.seq = s.seq ∧ t.idx = s.idx + 1 ∧ t.returns = s.returns ∧ t.r = none) ∧
      (s.caller = some .sequencer → res ≠ .ok →
        Quiescent t ∧ t.returns = s.returns ++ [.err res]) ∧
      (s.caller = some .probe → t.loc = .bc .probeClkt ∧ t.r = some res ∧ t.returns = s.returns)

/-- 42_transfer_engine.md R164, R165, R168, R169; 60_exceptions.md R243: what a status value decides, in
the order CLKT, ERR with TA clear, DONE, TXW, RXR; the direction is looked at in the DONE branch only. -/
def Obligations.ClassifierFollowsThePriorityOrder : Prop :=
  ∀ (s : State) (m : Message) (c : Cursor) (w : Word), s.loc = .eng (.classify w) → s.host = [] →
    s.m = some m → s.cur = some c →
    step s =
      if w.getLsbD 9 = true then
        .next { s with r := some .clockStretchTimeout, phase := .complete, loc := .eng (.exit .clearControl) }
      else if w.getLsbD 8 = true ∧ w.getLsbD 0 = false then
        .next { s with r := some .busError, phase := .complete, loc := .eng (.exit .clearControl) }
      else if w.getLsbD 1 = true then
        (if m.direction = .read then .next { s with loc := .eng (.doneDrain .sample) }
         else .next { s with r := some (if c.remaining = 0 then .ok else .lengthMismatch),
                             phase := .complete, loc := .eng (.exit .clearControl) })
      else if w.getLsbD 2 = true then
        (if c.remaining = 0 then
           .next { s with r := some .lengthMismatch, phase := .complete, loc := .eng (.exit .clearControl) }
         else .next { s with loc := .eng (.fill .sample) })
      else if w.getLsbD 3 = true then
        (if c.remaining = 0 then
           .next { s with r := some .lengthMismatch, phase := .complete, loc := .eng (.exit .clearControl) }
         else .next { s with loc := .eng (.drain .sample) })
      else .next { s with loc := .eng .deadline }

/-- 42_transfer_engine.md R166: the recheck of a Read message makes one status read and ends in
`LengthMismatch` exactly when RXD is set or bytes are missing, in `Ok` otherwise. (`device`: log entry 5.)
-/
def Obligations.RecheckDecidesTheRead : Prop :=
  ∀ (s : State) (c : Cursor) (w : Word), s.loc = .eng .doneRecheck → s.host = [] → s.cur = some c →
    s.answer .s = w →
    step s = .next { s with
      events := s.events ++ [.read .s w], device := s.device.tail,
      r := some (if w.getLsbD 5 = true ∨ c.remaining ≠ 0 then .lengthMismatch else .ok),
      phase := .complete, loc := .eng (.exit .clearControl) }

/-- 42_transfer_engine.md R170: step 6 reads the clock once and compares strictly. (`clock` and `ticks`:
log entry 6.) -/
def Obligations.DeadlineIsStrict : Prop :=
  ∀ (s : State) (d t : Nat), s.loc = .eng .deadline → s.host = [] → s.deadline = some d →
    s.nowAnswer = t →
    (d < t → step s = .next { s with
      events := s.events ++ [.now t], clock := t, ticks := s.ticks.tail,
      r := some .timeout, phase := .complete, loc := .eng (.exit .clearControl) }) ∧
    (t ≤ d → step s = .next { s with
      events := s.events ++ [.now t], clock := t, ticks := s.ticks.tail,
      loc := .eng .pollRead })

/-- 42_transfer_engine.md R171: an iteration whose status value shows none of the tested flags, within the
deadline, makes exactly one status read and one clock read and changes no block state. (Three steps: log
entry 1; the answers: log entries 5 and 6.) -/
def Obligations.IdleIterationChangesNoBlockState : Prop :=
  ∀ (s : State) (m : Message) (c : Cursor) (d t : Nat) (w : Word), s.loc = .eng .pollRead →
    s.host = [] → s.m = some m → s.cur = some c → s.deadline = some d → s.answer .s = w →
    w.getLsbD 9 = false → (w.getLsbD 8 = false ∨ w.getLsbD 0 = true) → w.getLsbD 1 = false →
    w.getLsbD 2 = false → w.getLsbD 3 = false →
    ({ s with events := s.events ++ [.read .s w] } : State).nowAnswer = t → t ≤ d →
    runSteps 3 s = .next { s with
      events := s.events ++ [.read .s w, .now t],
      device := s.device.tail, clock := t, ticks := s.ticks.tail }

/-- 42_transfer_engine.md R175: under a clock that stops and a device that shows no flag the engine polls
on, however long it is run. (Three steps an iteration: log entry 1; the answers: log entries 5 and 6.) -/
def Obligations.StoppedClockPollsOn : Prop :=
  ∀ (n : Nat) (s : State) (m : Message) (c : Cursor) (d : Nat) (rest : List Word) (more : List Nat),
    s.loc = .eng .pollRead → s.host = [] → s.m = some m → s.cur = some c → s.deadline = some d →
    s.clock ≤ d → s.device = List.replicate n 0 ++ rest → s.ticks = List.replicate n 0 ++ more →
    ∃ t, runSteps (3 * n) s = .next t ∧ t.loc = .eng .pollRead ∧ t.returns = s.returns ∧
      t.phase = s.phase ∧ t.cur = s.cur ∧ t.mem = s.mem ∧ t.port = s.port ∧
      t.events.length = s.events.length + 2 * n

/-- 42_transfer_engine.md R175: if every clock answer is later than the one before (the first `deadline +
1 - clock` of them are), the engine leaves its poll loop through `finish`, whatever the device answers.
(`ticks`: log entry 6.) -/
def Obligations.EngineEndsWhenTheClockAdvances : Prop :=
  ∀ (s : State) (d : Nat), Inv s → s.loc = .eng .pollRead → s.host = [] → s.deadline = some d →
    d + 1 - s.clock ≤ s.ticks.length → (∀ a ∈ s.ticks, 1 ≤ a) →
    ∃ n t, runSteps n s = .next t ∧ t.loc = .eng (.exit .clearControl) ∧ t.r.isSome = true

/-! ### The pump -/

/-- 43_fifo_pump.md R200, R203, R204, R210: a Fill of a device that shows space for `ts.length` bytes.
Fewer than remain: it moves them in index order, with one status read each and one more, and stops. As
many as remain: it moves them all with one status read each and no more. The buffer is only read. (Three
steps a byte: log entries 1 and 2; `device`: log entry 5.) -/
def Obligations.FillMovesBytesInOrder : Prop :=
  ∀ (s : State) (m : Message) (c : Cursor) (ts : List Word), s.loc = .eng (.fill .sample) →
    s.host = [] → s.m = some m → s.cur = some c → c.position + c.remaining = m.length →
    (∀ t ∈ ts, t.getLsbD 4 = true) →
    (∀ (t' : Word) (rest : List Word), ts.length < c.remaining → t'.getLsbD 4 = false →
      s.device = ts ++ t' :: rest →
      ∃ u, runSteps (3 * ts.length + 1) s = .next u ∧ u.loc = .eng .deadline ∧
        u.events = s.events ++ fillEvents s.mem m c.position ts ++ [.read .s t'] ∧
        u.cur = some { remaining := c.remaining - ts.length, position := c.position + ts.length } ∧
        u.device = rest ∧ u.mem = s.mem ∧ u.m = s.m ∧ u.deadline = s.deadline) ∧
    (∀ rest : List Word, ts.length = c.remaining → s.device = ts ++ rest →
      ∃ u, runSteps (3 * ts.length + 1) s = .next u ∧ u.loc = .eng .deadline ∧
        u.events = s.events ++ fillEvents s.mem m c.position ts ∧
        u.cur = some { remaining := 0, position := m.length } ∧
        u.device = rest ∧ u.mem = s.mem ∧ u.m = s.m ∧ u.deadline = s.deadline)

/-- 43_fifo_pump.md R205, R208, R210; 42_transfer_engine.md R166: the same of a Drain, the one of the poll
loop, which goes on at DEADLINE, and the final one of a Read's DONE branch, which goes on at the recheck: each
byte read is stored at the next index of the buffer, and every byte of memory outside those indexes is
unchanged. (Three steps a byte: log entries 1 and 2; `device`: log entry 5.) -/
def Obligations.DrainStoresBytesInOrder : Prop :=
  ∀ (s : State) (m : Message) (c : Cursor) (ps : List (Word × Word)) (start done : Label),
    ((start = .drain .sample ∧ done = .deadline) ∨
      (start = .doneDrain .sample ∧ done = .doneRecheck)) →
    s.loc = .eng start → s.host = [] → s.m = some m → s.cur = some c →
    c.position + c.remaining = m.length → s.mem.wf = true → (∀ p ∈ ps, p.1.getLsbD 5 = true) →
    (∀ (t' : Word) (rest : List Word), ps.length < c.remaining → t'.getLsbD 5 = false →
      s.device = drainAnswers ps ++ t' :: rest →
      ∃ u, runSteps (3 * ps.length + 1) s = .next u ∧ u.loc = .eng done ∧
        u.events = s.events ++ drainEvents c.position ps ++ [.read .s t'] ∧
        u.cur = some { remaining := c.remaining - ps.length, position := c.position + ps.length } ∧
        u.device = rest ∧ u.m = s.m ∧ u.deadline = s.deadline ∧
        (∀ i (p : Word × Word), ps[i]? = some p →
          u.mem.read (m.buffer.base + c.position + i) = BitVec.setWidth 8 p.2) ∧
        (∀ x, (x < m.buffer.base + c.position ∨ m.buffer.base + c.position + ps.length ≤ x) →
          u.mem.read x = s.mem.read x)) ∧
    (∀ rest : List Word, ps.length = c.remaining → s.device = drainAnswers ps ++ rest →
      ∃ u, runSteps (3 * ps.length + 1) s = .next u ∧ u.loc = .eng done ∧
        u.events = s.events ++ drainEvents c.position ps ∧
        u.cur = some { remaining := 0, position := m.length } ∧
        u.device = rest ∧ u.m = s.m ∧ u.deadline = s.deadline ∧
        (∀ i (p : Word × Word), ps[i]? = some p →
          u.mem.read (m.buffer.base + c.position + i) = BitVec.setWidth 8 p.2) ∧
        (∀ x, (x < m.buffer.base + c.position ∨ m.buffer.base + c.position + ps.length ≤ x) →
          u.mem.read x = s.mem.read x))

/-- 43_fifo_pump.md R210, 42_transfer_engine.md R175: every pump call ends, within three steps a byte and
one more, whatever the device answers, and goes on where its caller does. (Three steps a byte: log entries
1 and 2.) -/
def Obligations.EveryPumpCallEnds : Prop :=
  ∀ (s : State) (c : Cursor), Inv s → s.host = [] → s.cur = some c →
    (s.loc = .eng (.fill .sample) → ∃ n t, n ≤ 3 * c.remaining + 1 ∧ runSteps n s = .next t ∧
      t.loc = .eng .deadline) ∧
    (s.loc = .eng (.drain .sample) → ∃ n t, n ≤ 3 * c.remaining + 1 ∧ runSteps n s = .next t ∧
      t.loc = .eng .deadline) ∧
    (s.loc = .eng (.doneDrain .sample) → ∃ n t, n ≤ 3 * c.remaining + 1 ∧ runSteps n s = .next t ∧
      t.loc = .eng .doneRecheck)

/-- 10_state.md R23, 43_fifo_pump.md R209: over a step inside the poll loop the cursor keeps its sum;
`remaining` falls by exactly 1 when a byte goes to the FIFO (the FIFO write) or comes from it (the BufWrite),
and over every other step, with any other event or none, the cursor is unchanged. -/
def Obligations.CursorKeepsItsSum : Prop :=
  ∀ (s t : State) (c c' : Cursor), Inv s → step s = .next t → s.cur = some c → t.cur = some c' →
    c'.position + c'.remaining = c.position + c.remaining ∧ c'.remaining ≤ c.remaining ∧
    c.remaining ≤ c'.remaining + 1 ∧
    ((∃ b, t.events = s.events ++ [.write .fifo b]) → c'.remaining + 1 = c.remaining) ∧
    ((∃ i b, t.events = s.events ++ [.bufWrite i b]) → c'.remaining + 1 = c.remaining) ∧
    ((∀ b, t.events ≠ s.events ++ [.write .fifo b]) →
      (∀ i b, t.events ≠ s.events ++ [.bufWrite i b]) → c' = c)

/-! ### Invariants of every step -/

/-- Every step keeps the good states: the canonical memory, the block's fields as R20 to R28 and R46 say
at each label, the cursor sum, the handle's presets, the trace of legal accesses, the well-formed
messages, the aligned base. (The canonical form of memory: log entry 11; `r` between the engine's return
and the command's return is the model's choice: log entry 21.) -/
def Obligations.EveryStepKeepsTheInvariant : Prop :=
  ∀ s t : State, Inv s → step s = .next t → Inv t

/-- 20_memory.md R60, 60_exceptions.md R240: from a good state every step answers a next state, whatever the
host, the device and the clock do. A request the spec refuses and a wait of an idle block count as next
states (log entries 14 and 12); the faults ruled out are the model's own, for the spec has none (log entry
17). -/
def Obligations.GoodStatesNeverStop : Prop :=
  ∀ s : State, Inv s → ∃ t, step s = .next t

/-- 60_exceptions.md R250, R261: outside an engine's run the last control word written has READ, START and
I2CEN at 0; every step keeps this. (`port`: log entry 10.) -/
def Obligations.ControllerIsLeftDisabled : Prop :=
  ∀ s t : State, CleanOk s → step s = .next t → CleanOk t

/-- 40_register_interface.md R123, R130; 70_reset_and_hazards.md R289: every step keeps the pump's fresh
sample, and a step that writes the FIFO comes right after a status read that showed TXD, a step that reads
it right after one that showed RXD, each with a byte still to move. -/
def Obligations.FifoAccessFollowsFreshStatus : Prop :=
  (∀ s t : State, SampleOk s → step s = .next t → SampleOk t) ∧
  (∀ (s t : State) (v : Word), SampleOk s → Inv s → step s = .next t →
    t.events = s.events ++ [.write .fifo v] →
    (∃ w, lastAccess s = some (.read .s w) ∧ w.getLsbD 4 = true) ∧
      ∃ c, s.cur = some c ∧ 0 < c.remaining) ∧
  (∀ (s t : State) (v : Word), SampleOk s → Inv s → step s = .next t →
    t.events = s.events ++ [.read .fifo v] →
    (∃ w, lastAccess s = some (.read .s w) ∧ w.getLsbD 5 = true) ∧
      ∃ c, s.cur = some c ∧ 0 < c.remaining)

/-- 00_scope.md R15, 20_memory.md R62: a step makes at most one event, after all earlier ones. (Log entry
1.) -/
def Obligations.StepMakesAtMostOneEvent : Prop :=
  ∀ s t : State, step s = .next t → t.events = s.events ∨ ∃ e, t.events = s.events ++ [e]

/-- 60_exceptions.md R263: the clock's answers never decrease. (In the model by construction: log entry
6.) -/
def Obligations.ClockNeverGoesBack : Prop :=
  ∀ s t : State, step s = .next t →
    s.clock ≤ t.clock ∧ ∀ x, t.events = s.events ++ [.now x] → t.clock = x

/-- 10_state.md R43: `refused` is false at creation and never cleared. -/
def Obligations.RefusedIsNeverCleared : Prop :=
  State.reset.refused = false ∧
    ∀ s t : State, step s = .next t → s.refused = true → t.refused = true

/-- 10_state.md R21: `base` is fixed when the handle is created and never changes. -/
def Obligations.BaseNeverChanges : Prop :=
  ∀ s t : State, step s = .next t → t.handle.base = s.handle.base

/-- 10_state.md R29: the handle's speed fields are written by the divider writes alone, and `initialized`
is set by INIT alone (70_reset_and_hazards.md R284; a probe's re-init finds it set). -/
def Obligations.OnlyDividerWritesRecordASpeed : Prop :=
  (∀ s t : State, step s = .next t →
    (t.handle.lastDivider ≠ s.handle.lastDivider ∨ t.handle.lastSpeed ≠ s.handle.lastSpeed) →
    ∃ v, t.events = s.events ++ [.write .div v] ∧ t.handle.lastDivider = some v) ∧
  (∀ s t : State, Inv s → step s = .next t → s.handle.initialized = false →
    t.handle.initialized = true → ∃ v, s.loc = .bc (.initDiv v))

/-- 60_exceptions.md R257, 10_state.md R22: the engine's phase goes IDLE, ACTIVE_POLL, COMPLETE, IDLE and no
other way. -/
def Obligations.PhaseKeepsItsCycle : Prop :=
  ∀ s t : State, Inv s → step s = .next t →
    t.phase = s.phase ∨ (s.phase = .idle ∧ t.phase = .activePoll) ∨
    (s.phase = .activePoll ∧ t.phase = .complete) ∨ (s.phase = .complete ∧ t.phase = .idle)

/-- 20_memory.md R52, R53, R70: a step of the block changes memory only at a BufWrite of Drain, and there
only byte `position` of the message's buffer; the host's own store (log entry 12) changes its one address,
and only while no command runs. -/
def Obligations.MemoryChangesOnlyAtTheStoredByte : Prop :=
  ∀ s t : State, step s = .next t →
    (∀ x, t.mem.read x = s.mem.read x) ∨
    (∃ a b rest, s.host = .store a b :: rest ∧ s.loc = .idle ∧
      ∀ x, x ≠ a → t.mem.read x = s.mem.read x) ∨
    (∃ m c b, s.m = some m ∧ s.cur = some c ∧ c.position < m.length ∧
      (s.loc = .eng (.drain (.store b)) ∨ s.loc = .eng (.doneDrain (.store b))) ∧
      (∀ x, x ≠ bufAddress m c.position → t.mem.read x = s.mem.read x) ∧
      (s.mem.wf = true → t.mem.read (bufAddress m c.position) = b))

/-- 30_encoding.md R105, R106; 10_state.md R31: a trace of legal events holds only these words. With
EveryStepKeepsTheInvariant: the block reads S and FIFO alone, and writes to C exactly 0x30, 0x8080 and
0x8081. -/
def Obligations.LegalTraceHoldsOnlyTheTwelveKinds : Prop :=
  ∀ s : State, TraceOk s →
    (∀ r v, Event.read r v ∈ s.events → r = .s ∨ r = .fifo) ∧
    (∀ v, Event.write .c v ∈ s.events → v = 0x00000030 ∨ v = 0x00008080 ∨ v = 0x00008081) ∧
    (∀ v, Event.write .s v ∈ s.events → v = 0x00000302) ∧
    (∀ v, Event.write .dlen v ∈ s.events → v.toNat ≤ 0xFFFF) ∧
    (∀ v, Event.write .a v ∈ s.events → v.toNat ≤ 0x7F) ∧
    (∀ v, Event.write .fifo v ∈ s.events → v.toNat ≤ 0xFF) ∧
    (∀ v, Event.write .div v ∈ s.events → v = 1500 ∨ v = 6000) ∧
    (∀ v, Event.write .clkt v ∈ s.events → v = 0)

/-! ### What steers the block and what does not -/

/-- 20_memory.md R60: whether the block can take a step never depends on what the device answers.
(`device`: log entry 5.) -/
def Obligations.StepNeverWaitsForTheDevice : Prop :=
  ∀ (s : State) (d1 d2 : List Word),
    (∃ t, step { s with device := d1 } = .next t) → ∃ t, step { s with device := d2 } = .next t

/-- 20_memory.md R67: a buffer is data only: other contents change nothing about what the block does, but
the byte that Fill loads and sends. At the load, the one label that reads a buffer, both runs go on to the
FIFO write, each with its own byte, and their events differ in that byte alone. (The load is a label of its
own: log entry 2. A command the host issues meanwhile is refused and leaves the label: log entry 12.) -/
def Obligations.BufferContentsSteerNothing : Prop :=
  ∀ (s t : State) (mem2 : Memory), step s = .next t →
    ∃ t2, step { s with mem := mem2 } = .next t2 ∧
      t2.handle = t.handle ∧ t2.phase = t.phase ∧ t2.cur = t.cur ∧ t2.deadline = t.deadline ∧
      t2.seq = t.seq ∧ t2.idx = t.idx ∧ t2.m = t.m ∧ t2.r = t.r ∧ t2.refused = t.refused ∧
      t2.caller = t.caller ∧ t2.returns = t.returns ∧ t2.refusals = t.refusals ∧ t2.host = t.host ∧
      t2.device = t.device ∧ t2.clock = t.clock ∧ t2.ticks = t.ticks ∧ t2.port = t.port ∧
      ((s.loc ≠ .eng (.fill .load) ∨ ∃ w ops rest, s.host = .issue w ops :: rest) →
        t2.loc = t.loc ∧ t2.events = t.events) ∧
      (s.loc = .eng (.fill .load) → (∀ w ops rest, s.host ≠ .issue w ops :: rest) →
        ∃ (m : Message) (c : Cursor), s.m = some m ∧ s.cur = some c ∧
          t.loc = .eng (.fill (.push (s.mem.read (m.buffer.base + c.position)))) ∧
          t.events = s.events ++
            [.bufRead c.position (s.mem.read (m.buffer.base + c.position))] ∧
          t2.loc = .eng (.fill (.push (mem2.read (m.buffer.base + c.position)))) ∧
          t2.events = s.events ++ [.bufRead c.position (mem2.read (m.buffer.base + c.position))])

/-- 30_encoding.md R82: what a status value decides depends on bits 0 to 3, 8 and 9 alone: bits 31:10, TXE
and RXF decide nothing. -/
def Obligations.OtherStatusBitsDecideNothing : Prop :=
  ∀ (w v : Word) (remaining : Nat),
    (∀ i, i = 0 ∨ i = 1 ∨ i = 2 ∨ i = 3 ∨ i = 8 ∨ i = 9 → w.getLsbD i = v.getLsbD i) →
    classify w remaining = classify v remaining

/-! ### Values -/

/-- 30_encoding.md R94: the preset function. -/
def Obligations.SpeedPresets : Prop :=
  ∀ speedHz : Nat,
    divider speedHz = (if speedHz = 400000 then 1500 else 6000) ∧
    nominal speedHz = (if speedHz = 400000 then 400000 else 100000)

/-- 30_encoding.md R113: the result codes, which are distinct. -/
def Obligations.ResultCodes : Prop :=
  resultCode .ok = 0 ∧ resultCode .timeout = 1 ∧ resultCode .clockStretchTimeout = 2 ∧
  resultCode .busError = 3 ∧ resultCode .lengthMismatch = 4 ∧ resultCode .invalidAddress = 5 ∧
  ∀ a b : Result, resultCode a = resultCode b → a = b

/-- 70_reset_and_hazards.md R281: with no command and no host action the block waits. (Model's own: a
waiting block stutters, log entry 12.) -/
def Obligations.IdleBlockWaits : Prop :=
  ∀ s : State, s.loc = .idle → s.host = [] → step s = .next s
end

