-- ==== Sys2Proof/Laws/Decode.lean ====
section
/-! SUPPORT. What the decoder answers on every descriptor, field by field: later proofs cite these and do
not unfold the table. -/

namespace Sys2Proof

/-- Two concatenations agree when their parts do. -/
theorem append_eq_append_iff_parts {n k : Nat} (x x' : BitVec n) (y y' : BitVec k) :
    x ++ y = x' ++ y' ↔ x = x' ∧ y = y' := by
  constructor
  · intro h
    have hy := congrArg (BitVec.extractLsb' 0 k) h
    have hx := congrArg (BitVec.extractLsb' k n) h
    rw [BitVec.extractLsb'_append_eq_right, BitVec.extractLsb'_append_eq_right] at hy
    rw [BitVec.extractLsb'_append_eq_left, BitVec.extractLsb'_append_eq_left] at hx
    exact ⟨hx, hy⟩
  · rintro ⟨rfl, rfl⟩
    rfl

/-- A descriptor whose fields are written out. -/
def fields (w : BitVec 1) (i : BitVec 3) (data : Word) : Descriptor := w ++ i ++ data

theorem descriptor_eq_fields (w : BitVec 1) (r : Reg) (data : Word) :
    descriptor w r data = fields w r.index data := rfl

/-- Every descriptor is its fields. -/
theorem eq_fields (d : Descriptor) :
    d = fields (d.extractLsb' 35 1) (d.extractLsb' 32 3) (descriptorData d) := by
  have h1 : d.extractLsb' 35 1 ++ d.extractLsb' 32 3 = d.extractLsb' 32 (1 + 3) :=
    BitVec.extractLsb'_append_extractLsb'_eq_extractLsb' rfl
  have h2 : d.extractLsb' 32 (1 + 3) ++ d.extractLsb' 0 32 = d.extractLsb' 0 (1 + 3 + 32) :=
    BitVec.extractLsb'_append_extractLsb'_eq_extractLsb' rfl
  have h3 : d.extractLsb' 0 36 = d := BitVec.extractLsb'_eq_self
  unfold fields descriptorData
  rw [h1]
  exact (h2.trans h3).symm

@[simp] theorem descriptorData_fields (w : BitVec 1) (i : BitVec 3) (data : Word) :
    descriptorData (fields w i data) = data :=
  BitVec.extractLsb'_append_eq_right

@[simp] theorem descriptorData_read (r : Reg) (data : Word) :
    descriptorData (readDescriptor r data) = data := descriptorData_fields _ _ _

@[simp] theorem descriptorData_write (r : Reg) (data : Word) :
    descriptorData (writeDescriptor r data) = data := descriptorData_fields _ _ _

/-- Masking and matching a descriptor goes field by field. -/
theorem fields_and_eq_iff (w mw pw : BitVec 1) (i mi pi : BitVec 3) (data md pd : Word) :
    (fields w i data &&& fields mw mi md = fields pw pi pd) ↔
      (w &&& mw = pw ∧ i &&& mi = pi ∧ data &&& md = pd) := by
  unfold fields
  show (w ++ i ++ data &&& (mw ++ mi ++ md) = (pw ++ pi ++ pd)) ↔ _
  rw [BitVec.and_append, BitVec.and_append, append_eq_append_iff_parts, append_eq_append_iff_parts,
    and_assoc]

theorem fields_inj (w w' : BitVec 1) (i i' : BitVec 3) (data data' : Word) :
    fields w i data = fields w' i' data' ↔ w = w' ∧ i = i' ∧ data = data' := by
  unfold fields
  show (w ++ i ++ data = (w' ++ i' ++ data')) ↔ _
  rw [append_eq_append_iff_parts, append_eq_append_iff_parts, and_assoc]

/-- A row whose mask takes W, IDX and the DATA bits `md` fits by fields. -/
theorem row_fits_iff (p m : Descriptor) (b : Descriptor → Instr) (w pw : BitVec 1) (i pi : BitVec 3)
    (data md pd : Word) (hm : m = fields 1 7 md) (hp : p = fields pw pi pd) :
    (AccessRow.mk p m b).fits (fields w i data) = (decide (w = pw) && decide (i = pi) &&
      decide (data &&& md = pd)) := by
  have hw : w &&& 1#1 = w := by revert w; decide
  have hi : i &&& 7#3 = i := by revert i; decide
  have h := fields_and_eq_iff w 1 pw i 7 pi data md pd
  unfold AccessRow.fits
  simp only [hm, hp]
  rw [Bool.eq_iff_iff]
  simp only [beq_iff_eq, Bool.and_eq_true, decide_eq_true_eq]
  rw [h, and_assoc]
  rw [show (1 : BitVec 1) = 1#1 from rfl, show (7 : BitVec 3) = 7#3 from rfl, hw, hi]

/-- The decoder by fields: the twelve kinds of 30_encoding.md R105, in order. -/
def kindOf (w : BitVec 1) (i : BitVec 3) (data : Word) : Option Instr :=
  if w = 0 ∧ i = 1 then some (.rdS data)
  else if w = 0 ∧ i = 4 then some (.rdFifo data)
  else if w = 1 ∧ i = 0 ∧ data = 0x00000030 then some .wrCClear
  else if w = 1 ∧ i = 0 ∧ data = 0x00008080 then some .wrCStartW
  else if w = 1 ∧ i = 0 ∧ data = 0x00008081 then some .wrCStartR
  else if w = 1 ∧ i = 1 ∧ data = 0x00000302 then some .wrSClear
  else if w = 1 ∧ i = 2 ∧ data &&& 0xFFFF0000 = 0 then some (.wrDlen (data.extractLsb' 0 16).toNat)
  else if w = 1 ∧ i = 3 ∧ data &&& 0xFFFFFF80 = 0 then some (.wrA (data.extractLsb' 0 7).toNat)
  else if w = 1 ∧ i = 4 ∧ data &&& 0xFFFFFF00 = 0 then some (.wrFifo (data.extractLsb' 0 8))
  else if w = 1 ∧ i = 5 ∧ data = 0x000005DC then some .wrDivFast
  else if w = 1 ∧ i = 5 ∧ data = 0x00001770 then some .wrDivStd
  else if w = 1 ∧ i = 7 ∧ data = 0x00000000 then some .wrClkt
  else none

theorem extract_fields_low (w : BitVec 1) (i : BitVec 3) (data : Word) (n : Nat) (hn : n ≤ 32) :
    (fields w i data).extractLsb' 0 n = data.extractLsb' 0 n := by
  apply BitVec.eq_of_getLsbD_eq
  intro k hk
  have h32 : k < 32 := by omega
  have hb : (fields w i data).getLsbD k = data.getLsbD k := by
    unfold fields
    show ((w ++ i) ++ data).getLsbD k = _
    rw [BitVec.getLsbD_append]
    simp [h32]
  simp [hb, hk]

/-- The table's search, row by row. -/
theorem findRow_cons (row : AccessRow) (rows : List AccessRow) (d : Descriptor) :
    (((row :: rows).find? fun r => r.fits d).map fun r => r.build d) =
      if row.fits d = true then some (row.build d)
      else ((rows.find? fun r => r.fits d).map fun r => r.build d) := by
  rw [List.find?_cons]
  split <;> simp_all

theorem decodeAccess_fields (w : BitVec 1) (i : BitVec 3) (data : Word) :
    decodeAccess (fields w i data) = kindOf w i data := by
  have zero : data &&& 0#32 = 0#32 := by simp
  have full : data &&& 0xFFFFFFFF#32 = data := BitVec.and_allOnes
  have r1 := fun b => row_fits_iff 0x100000000 0xF00000000 b w 0 i 1 data 0 0 (by decide) (by decide)
  have r2 := fun b => row_fits_iff 0x400000000 0xF00000000 b w 0 i 4 data 0 0 (by decide) (by decide)
  have r3 := fun b => row_fits_iff 0x800000030 0xFFFFFFFFF b w 1 i 0 data 0xFFFFFFFF 0x30 (by decide) (by decide)
  have r4 := fun b => row_fits_iff 0x800008080 0xFFFFFFFFF b w 1 i 0 data 0xFFFFFFFF 0x8080 (by decide) (by decide)
  have r5 := fun b => row_fits_iff 0x800008081 0xFFFFFFFFF b w 1 i 0 data 0xFFFFFFFF 0x8081 (by decide) (by decide)
  have r6 := fun b => row_fits_iff 0x900000302 0xFFFFFFFFF b w 1 i 1 data 0xFFFFFFFF 0x302 (by decide) (by decide)
  have r7 := fun b => row_fits_iff 0xA00000000 0xFFFFF0000 b w 1 i 2 data 0xFFFF0000 0 (by decide) (by decide)
  have r8 := fun b => row_fits_iff 0xB00000000 0xFFFFFFF80 b w 1 i 3 data 0xFFFFFF80 0 (by decide) (by decide)
  have r9 := fun b => row_fits_iff 0xC00000000 0xFFFFFFF00 b w 1 i 4 data 0xFFFFFF00 0 (by decide) (by decide)
  have r10 := fun b => row_fits_iff 0xD000005DC 0xFFFFFFFFF b w 1 i 5 data 0xFFFFFFFF 0x5DC (by decide) (by decide)
  have r11 := fun b => row_fits_iff 0xD00001770 0xFFFFFFFFF b w 1 i 5 data 0xFFFFFFFF 0x1770 (by decide) (by decide)
  have r12 := fun b => row_fits_iff 0xF00000000 0xFFFFFFFFF b w 1 i 7 data 0xFFFFFFFF 0 (by decide) (by decide)
  have e16 := extract_fields_low w i data 16 (by omega)
  have e8 := extract_fields_low w i data 8 (by omega)
  have e7 := extract_fields_low w i data 7 (by omega)
  unfold decodeAccess accessRows kindOf
  simp only [findRow_cons, r1, r2, r3, r4, r5, r6, r7, r8, r9, r10, r11, r12, List.find?_nil,
    Option.map_none, Bool.and_eq_true, decide_eq_true_eq, and_assoc, e16, e8, e7,
    descriptorData_fields]
  simp only [show (0 : Word) = 0#32 from rfl, show (0xFFFFFFFF : Word) = 0xFFFFFFFF#32 from rfl, zero,
    full, and_true]

/-- A mask of the bits from k up meets nothing of a word exactly when the word is below 2^k. -/
theorem and_highMask_eq_zero_iff (w m : Word) (k : Nat)
    (hm : ∀ i : Fin 32, m.getLsbD i = decide (k ≤ i.val)) :
    w &&& m = 0 ↔ w.toNat < 2 ^ k := by
  constructor
  · intro h
    apply Nat.lt_pow_two_of_testBit
    intro i hi
    by_cases h32 : i < 32
    · have hb := congrArg (fun x => x.getLsbD i) h
      have hmi := hm ⟨i, h32⟩
      simp only [BitVec.getLsbD_and, hmi, hi, decide_true, Bool.and_true] at hb
      simpa [BitVec.getLsbD] using hb
    · exact Nat.testBit_lt_two_pow (Nat.lt_of_lt_of_le w.isLt (Nat.pow_le_pow_right (by omega) (by omega)))
  · intro h
    apply BitVec.eq_of_getLsbD_eq
    intro i hi
    have hmi := hm ⟨i, hi⟩
    simp only [BitVec.getLsbD_and, hmi]
    by_cases hk : k ≤ i
    · have : w.getLsbD i = false :=
        Nat.testBit_lt_two_pow (Nat.lt_of_lt_of_le h (Nat.pow_le_pow_right (by omega) hk))
      simp [this]
    · simp [hk]

theorem and_mask16 (w : Word) : w &&& 0xFFFF0000 = 0 ↔ w.toNat < 2 ^ 16 :=
  and_highMask_eq_zero_iff w _ 16 (by decide)

theorem and_mask7 (w : Word) : w &&& 0xFFFFFF80 = 0 ↔ w.toNat < 2 ^ 7 :=
  and_highMask_eq_zero_iff w _ 7 (by decide)

theorem and_mask8 (w : Word) : w &&& 0xFFFFFF00 = 0 ↔ w.toNat < 2 ^ 8 :=
  and_highMask_eq_zero_iff w _ 8 (by decide)

theorem toNat_extract_low (w : Word) (n : Nat) (h : w.toNat < 2 ^ n) :
    (w.extractLsb' 0 n).toNat = w.toNat := by
  simp [BitVec.extractLsb'_toNat, Nat.mod_eq_of_lt h]

theorem toNat_natWord (n : Nat) (h : n < 2 ^ 32) : (natWord n).toNat = n := by
  simp [natWord]
  omega

theorem toNat_zext32 (b : Byte) : (zext32 b).toNat = b.toNat := by
  have := b.isLt
  simp [zext32]
  omega

/-! ### The decoder on a read and on a write of each register -/

@[simp] theorem decodeAccess_readS (v : Word) : decodeAccess (readDescriptor .s v) = some (.rdS v) := by
  rw [readDescriptor, descriptor_eq_fields, decodeAccess_fields]
  rfl

@[simp] theorem decodeAccess_readFifo (v : Word) :
    decodeAccess (readDescriptor .fifo v) = some (.rdFifo v) := by
  rw [readDescriptor, descriptor_eq_fields, decodeAccess_fields]
  rfl

@[simp] theorem decodeAccess_clearControl :
    decodeAccess (writeDescriptor .c Config.cClear) = some .wrCClear := by decide

@[simp] theorem decodeAccess_clearStatus :
    decodeAccess (writeDescriptor .s Config.sClear) = some .wrSClear := by decide

@[simp] theorem decodeAccess_clktOff :
    decodeAccess (writeDescriptor .clkt Config.clktOff) = some .wrClkt := by decide

@[simp] theorem decodeAccess_divFast :
    decodeAccess (writeDescriptor .div Config.divFast) = some .wrDivFast := by decide

@[simp] theorem decodeAccess_divStd :
    decodeAccess (writeDescriptor .div Config.divStd) = some .wrDivStd := by decide

@[simp] theorem decodeAccess_length (n : Nat) (h : n ≤ Config.dlenMax) :
    decodeAccess (writeDescriptor .dlen (natWord n)) = some (.wrDlen n) := by
  have hn : n < 2 ^ 16 := by simp [Config.dlenMax] at h; omega
  have hw := toNat_natWord n (by omega)
  have hm : natWord n &&& 0xFFFF0000 = 0 := (and_mask16 _).2 (by omega)
  rw [writeDescriptor, descriptor_eq_fields, decodeAccess_fields]
  simp only [kindOf, Reg.index, Reg.offset, hm, toNat_extract_low (natWord n) 16 (by omega), hw]
  rfl

@[simp] theorem decodeAccess_address (a : Nat) (h : a ≤ Config.addrMax) :
    decodeAccess (writeDescriptor .a (natWord a)) = some (.wrA a) := by
  have hn : a < 2 ^ 7 := by simp [Config.addrMax] at h; omega
  have hw := toNat_natWord a (by omega)
  have hm : natWord a &&& 0xFFFFFF80 = 0 := (and_mask7 _).2 (by omega)
  rw [writeDescriptor, descriptor_eq_fields, decodeAccess_fields]
  simp only [kindOf, Reg.index, Reg.offset, hm, toNat_extract_low (natWord a) 7 (by omega), hw]
  rfl

@[simp] theorem decodeAccess_byte (b : Byte) :
    decodeAccess (writeDescriptor .fifo (zext32 b)) = some (.wrFifo b) := by
  have hb := b.isLt
  have hw := toNat_zext32 b
  have hm : zext32 b &&& 0xFFFFFF00 = 0 := (and_mask8 _).2 (by omega)
  have he : (zext32 b).extractLsb' 0 8 = b := by
    apply BitVec.eq_of_toNat_eq
    rw [toNat_extract_low _ 8 (by omega), hw]
  rw [writeDescriptor, descriptor_eq_fields, decodeAccess_fields]
  simp only [kindOf, Reg.index, Reg.offset, hm, he]
  rfl

end Sys2Proof
end

