-- ==== Sys2Proof/Laws/State.lean ====
section
/-! SUPPORT. One lemma per field per update of State, so that no later proof unfolds a record update. -/

namespace Sys2Proof.Machine

/-! ### record -/

@[simp] theorem State.record_handle (s : State) (e : Event) : (s.record e).handle = s.handle := rfl
@[simp] theorem State.record_phase (s : State) (e : Event) : (s.record e).phase = s.phase := rfl
@[simp] theorem State.record_cur (s : State) (e : Event) : (s.record e).cur = s.cur := rfl
@[simp] theorem State.record_deadline (s : State) (e : Event) :
    (s.record e).deadline = s.deadline := rfl
@[simp] theorem State.record_loc (s : State) (e : Event) : (s.record e).loc = s.loc := rfl
@[simp] theorem State.record_seq (s : State) (e : Event) : (s.record e).seq = s.seq := rfl
@[simp] theorem State.record_idx (s : State) (e : Event) : (s.record e).idx = s.idx := rfl
@[simp] theorem State.record_m (s : State) (e : Event) : (s.record e).m = s.m := rfl
@[simp] theorem State.record_r (s : State) (e : Event) : (s.record e).r = s.r := rfl
@[simp] theorem State.record_refused (s : State) (e : Event) :
    (s.record e).refused = s.refused := rfl
@[simp] theorem State.record_caller (s : State) (e : Event) : (s.record e).caller = s.caller := rfl
@[simp] theorem State.record_mem (s : State) (e : Event) : (s.record e).mem = s.mem := rfl
@[simp] theorem State.record_port (s : State) (e : Event) : (s.record e).port = s.port := rfl
@[simp] theorem State.record_events (s : State) (e : Event) :
    (s.record e).events = s.events ++ [e] := rfl
@[simp] theorem State.record_returns (s : State) (e : Event) :
    (s.record e).returns = s.returns := rfl
@[simp] theorem State.record_refusals (s : State) (e : Event) :
    (s.record e).refusals = s.refusals := rfl
@[simp] theorem State.record_host (s : State) (e : Event) : (s.record e).host = s.host := rfl
@[simp] theorem State.record_device (s : State) (e : Event) : (s.record e).device = s.device := rfl
@[simp] theorem State.record_clock (s : State) (e : Event) : (s.record e).clock = s.clock := rfl
@[simp] theorem State.record_ticks (s : State) (e : Event) : (s.record e).ticks = s.ticks := rfl

/-! ### regRead -/

@[simp] theorem State.regRead_handle (s : State) (x : Reg) (v : Word) :
    (s.regRead x v).handle = s.handle := rfl
@[simp] theorem State.regRead_phase (s : State) (x : Reg) (v : Word) :
    (s.regRead x v).phase = s.phase := rfl
@[simp] theorem State.regRead_cur (s : State) (x : Reg) (v : Word) :
    (s.regRead x v).cur = s.cur := rfl
@[simp] theorem State.regRead_deadline (s : State) (x : Reg) (v : Word) :
    (s.regRead x v).deadline = s.deadline := rfl
@[simp] theorem State.regRead_loc (s : State) (x : Reg) (v : Word) :
    (s.regRead x v).loc = s.loc := rfl
@[simp] theorem State.regRead_seq (s : State) (x : Reg) (v : Word) :
    (s.regRead x v).seq = s.seq := rfl
@[simp] theorem State.regRead_idx (s : State) (x : Reg) (v : Word) :
    (s.regRead x v).idx = s.idx := rfl
@[simp] theorem State.regRead_m (s : State) (x : Reg) (v : Word) : (s.regRead x v).m = s.m := rfl
@[simp] theorem State.regRead_r (s : State) (x : Reg) (v : Word) : (s.regRead x v).r = s.r := rfl
@[simp] theorem State.regRead_refused (s : State) (x : Reg) (v : Word) :
    (s.regRead x v).refused = s.refused := rfl
@[simp] theorem State.regRead_caller (s : State) (x : Reg) (v : Word) :
    (s.regRead x v).caller = s.caller := rfl
@[simp] theorem State.regRead_mem (s : State) (x : Reg) (v : Word) :
    (s.regRead x v).mem = s.mem := rfl
@[simp] theorem State.regRead_port (s : State) (x : Reg) (v : Word) :
    (s.regRead x v).port = s.port := rfl
@[simp] theorem State.regRead_events (s : State) (x : Reg) (v : Word) :
    (s.regRead x v).events = s.events ++ [.read x v] := rfl
@[simp] theorem State.regRead_returns (s : State) (x : Reg) (v : Word) :
    (s.regRead x v).returns = s.returns := rfl
@[simp] theorem State.regRead_refusals (s : State) (x : Reg) (v : Word) :
    (s.regRead x v).refusals = s.refusals := rfl
@[simp] theorem State.regRead_host (s : State) (x : Reg) (v : Word) :
    (s.regRead x v).host = s.host := rfl
@[simp] theorem State.regRead_device (s : State) (x : Reg) (v : Word) :
    (s.regRead x v).device = s.device.tail := rfl
@[simp] theorem State.regRead_clock (s : State) (x : Reg) (v : Word) :
    (s.regRead x v).clock = s.clock := rfl
@[simp] theorem State.regRead_ticks (s : State) (x : Reg) (v : Word) :
    (s.regRead x v).ticks = s.ticks := rfl

/-! ### regWrite -/

@[simp] theorem State.regWrite_handle (s : State) (x : Reg) (v : Word) :
    (s.regWrite x v).handle = s.handle := rfl
@[simp] theorem State.regWrite_phase (s : State) (x : Reg) (v : Word) :
    (s.regWrite x v).phase = s.phase := rfl
@[simp] theorem State.regWrite_cur (s : State) (x : Reg) (v : Word) :
    (s.regWrite x v).cur = s.cur := rfl
@[simp] theorem State.regWrite_deadline (s : State) (x : Reg) (v : Word) :
    (s.regWrite x v).deadline = s.deadline := rfl
@[simp] theorem State.regWrite_loc (s : State) (x : Reg) (v : Word) :
    (s.regWrite x v).loc = s.loc := rfl
@[simp] theorem State.regWrite_seq (s : State) (x : Reg) (v : Word) :
    (s.regWrite x v).seq = s.seq := rfl
@[simp] theorem State.regWrite_idx (s : State) (x : Reg) (v : Word) :
    (s.regWrite x v).idx = s.idx := rfl
@[simp] theorem State.regWrite_m (s : State) (x : Reg) (v : Word) : (s.regWrite x v).m = s.m := rfl
@[simp] theorem State.regWrite_r (s : State) (x : Reg) (v : Word) : (s.regWrite x v).r = s.r := rfl
@[simp] theorem State.regWrite_refused (s : State) (x : Reg) (v : Word) :
    (s.regWrite x v).refused = s.refused := rfl
@[simp] theorem State.regWrite_caller (s : State) (x : Reg) (v : Word) :
    (s.regWrite x v).caller = s.caller := rfl
@[simp] theorem State.regWrite_mem (s : State) (x : Reg) (v : Word) :
    (s.regWrite x v).mem = s.mem := rfl
@[simp] theorem State.regWrite_port (s : State) (x : Reg) (v : Word) :
    (s.regWrite x v).port = s.port.set v x := rfl
@[simp] theorem State.regWrite_events (s : State) (x : Reg) (v : Word) :
    (s.regWrite x v).events = s.events ++ [.write x v] := rfl
@[simp] theorem State.regWrite_returns (s : State) (x : Reg) (v : Word) :
    (s.regWrite x v).returns = s.returns := rfl
@[simp] theorem State.regWrite_refusals (s : State) (x : Reg) (v : Word) :
    (s.regWrite x v).refusals = s.refusals := rfl
@[simp] theorem State.regWrite_host (s : State) (x : Reg) (v : Word) :
    (s.regWrite x v).host = s.host := rfl
@[simp] theorem State.regWrite_device (s : State) (x : Reg) (v : Word) :
    (s.regWrite x v).device = s.device := rfl
@[simp] theorem State.regWrite_clock (s : State) (x : Reg) (v : Word) :
    (s.regWrite x v).clock = s.clock := rfl
@[simp] theorem State.regWrite_ticks (s : State) (x : Reg) (v : Word) :
    (s.regWrite x v).ticks = s.ticks := rfl

/-! ### bufRead -/

@[simp] theorem State.bufRead_handle (s : State) (b : Message) (i : Nat) :
    (s.bufRead b i).handle = s.handle := rfl
@[simp] theorem State.bufRead_phase (s : State) (b : Message) (i : Nat) :
    (s.bufRead b i).phase = s.phase := rfl
@[simp] theorem State.bufRead_cur (s : State) (b : Message) (i : Nat) :
    (s.bufRead b i).cur = s.cur := rfl
@[simp] theorem State.bufRead_deadline (s : State) (b : Message) (i : Nat) :
    (s.bufRead b i).deadline = s.deadline := rfl
@[simp] theorem State.bufRead_loc (s : State) (b : Message) (i : Nat) :
    (s.bufRead b i).loc = s.loc := rfl
@[simp] theorem State.bufRead_seq (s : State) (b : Message) (i : Nat) :
    (s.bufRead b i).seq = s.seq := rfl
@[simp] theorem State.bufRead_idx (s : State) (b : Message) (i : Nat) :
    (s.bufRead b i).idx = s.idx := rfl
@[simp] theorem State.bufRead_m (s : State) (b : Message) (i : Nat) : (s.bufRead b i).m = s.m := rfl
@[simp] theorem State.bufRead_r (s : State) (b : Message) (i : Nat) : (s.bufRead b i).r = s.r := rfl
@[simp] theorem State.bufRead_refused (s : State) (b : Message) (i : Nat) :
    (s.bufRead b i).refused = s.refused := rfl
@[simp] theorem State.bufRead_caller (s : State) (b : Message) (i : Nat) :
    (s.bufRead b i).caller = s.caller := rfl
@[simp] theorem State.bufRead_mem (s : State) (b : Message) (i : Nat) :
    (s.bufRead b i).mem = s.mem := rfl
@[simp] theorem State.bufRead_port (s : State) (b : Message) (i : Nat) :
    (s.bufRead b i).port = s.port := rfl
@[simp] theorem State.bufRead_events (s : State) (b : Message) (i : Nat) :
    (s.bufRead b i).events = s.events ++ [.bufRead i (s.bufByte b i)] := rfl
@[simp] theorem State.bufRead_returns (s : State) (b : Message) (i : Nat) :
    (s.bufRead b i).returns = s.returns := rfl
@[simp] theorem State.bufRead_refusals (s : State) (b : Message) (i : Nat) :
    (s.bufRead b i).refusals = s.refusals := rfl
@[simp] theorem State.bufRead_host (s : State) (b : Message) (i : Nat) :
    (s.bufRead b i).host = s.host := rfl
@[simp] theorem State.bufRead_device (s : State) (b : Message) (i : Nat) :
    (s.bufRead b i).device = s.device := rfl
@[simp] theorem State.bufRead_clock (s : State) (b : Message) (i : Nat) :
    (s.bufRead b i).clock = s.clock := rfl
@[simp] theorem State.bufRead_ticks (s : State) (b : Message) (i : Nat) :
    (s.bufRead b i).ticks = s.ticks := rfl

/-! ### bufWrite -/

@[simp] theorem State.bufWrite_handle (s : State) (b : Message) (i : Nat) (v : Byte) :
    (s.bufWrite b i v).handle = s.handle := rfl
@[simp] theorem State.bufWrite_phase (s : State) (b : Message) (i : Nat) (v : Byte) :
    (s.bufWrite b i v).phase = s.phase := rfl
@[simp] theorem State.bufWrite_cur (s : State) (b : Message) (i : Nat) (v : Byte) :
    (s.bufWrite b i v).cur = s.cur := rfl
@[simp] theorem State.bufWrite_deadline (s : State) (b : Message) (i : Nat) (v : Byte) :
    (s.bufWrite b i v).deadline = s.deadline := rfl
@[simp] theorem State.bufWrite_loc (s : State) (b : Message) (i : Nat) (v : Byte) :
    (s.bufWrite b i v).loc = s.loc := rfl
@[simp] theorem State.bufWrite_seq (s : State) (b : Message) (i : Nat) (v : Byte) :
    (s.bufWrite b i v).seq = s.seq := rfl
@[simp] theorem State.bufWrite_idx (s : State) (b : Message) (i : Nat) (v : Byte) :
    (s.bufWrite b i v).idx = s.idx := rfl
@[simp] theorem State.bufWrite_m (s : State) (b : Message) (i : Nat) (v : Byte) :
    (s.bufWrite b i v).m = s.m := rfl
@[simp] theorem State.bufWrite_r (s : State) (b : Message) (i : Nat) (v : Byte) :
    (s.bufWrite b i v).r = s.r := rfl
@[simp] theorem State.bufWrite_refused (s : State) (b : Message) (i : Nat) (v : Byte) :
    (s.bufWrite b i v).refused = s.refused := rfl
@[simp] theorem State.bufWrite_caller (s : State) (b : Message) (i : Nat) (v : Byte) :
    (s.bufWrite b i v).caller = s.caller := rfl
@[simp] theorem State.bufWrite_mem (s : State) (b : Message) (i : Nat) (v : Byte) :
    (s.bufWrite b i v).mem = s.mem.write (bufAddress b i) v := rfl
@[simp] theorem State.bufWrite_port (s : State) (b : Message) (i : Nat) (v : Byte) :
    (s.bufWrite b i v).port = s.port := rfl
@[simp] theorem State.bufWrite_events (s : State) (b : Message) (i : Nat) (v : Byte) :
    (s.bufWrite b i v).events = s.events ++ [.bufWrite i v] := rfl
@[simp] theorem State.bufWrite_returns (s : State) (b : Message) (i : Nat) (v : Byte) :
    (s.bufWrite b i v).returns = s.returns := rfl
@[simp] theorem State.bufWrite_refusals (s : State) (b : Message) (i : Nat) (v : Byte) :
    (s.bufWrite b i v).refusals = s.refusals := rfl
@[simp] theorem State.bufWrite_host (s : State) (b : Message) (i : Nat) (v : Byte) :
    (s.bufWrite b i v).host = s.host := rfl
@[simp] theorem State.bufWrite_device (s : State) (b : Message) (i : Nat) (v : Byte) :
    (s.bufWrite b i v).device = s.device := rfl
@[simp] theorem State.bufWrite_clock (s : State) (b : Message) (i : Nat) (v : Byte) :
    (s.bufWrite b i v).clock = s.clock := rfl
@[simp] theorem State.bufWrite_ticks (s : State) (b : Message) (i : Nat) (v : Byte) :
    (s.bufWrite b i v).ticks = s.ticks := rfl

/-! ### readClock -/

@[simp] theorem State.readClock_handle (s : State) : (s.readClock).handle = s.handle := rfl
@[simp] theorem State.readClock_phase (s : State) : (s.readClock).phase = s.phase := rfl
@[simp] theorem State.readClock_cur (s : State) : (s.readClock).cur = s.cur := rfl
@[simp] theorem State.readClock_deadline (s : State) : (s.readClock).deadline = s.deadline := rfl
@[simp] theorem State.readClock_loc (s : State) : (s.readClock).loc = s.loc := rfl
@[simp] theorem State.readClock_seq (s : State) : (s.readClock).seq = s.seq := rfl
@[simp] theorem State.readClock_idx (s : State) : (s.readClock).idx = s.idx := rfl
@[simp] theorem State.readClock_m (s : State) : (s.readClock).m = s.m := rfl
@[simp] theorem State.readClock_r (s : State) : (s.readClock).r = s.r := rfl
@[simp] theorem State.readClock_refused (s : State) : (s.readClock).refused = s.refused := rfl
@[simp] theorem State.readClock_caller (s : State) : (s.readClock).caller = s.caller := rfl
@[simp] theorem State.readClock_mem (s : State) : (s.readClock).mem = s.mem := rfl
@[simp] theorem State.readClock_port (s : State) : (s.readClock).port = s.port := rfl
@[simp] theorem State.readClock_events (s : State) :
    (s.readClock).events = s.events ++ [.now s.nowAnswer] := rfl
@[simp] theorem State.readClock_returns (s : State) : (s.readClock).returns = s.returns := rfl
@[simp] theorem State.readClock_refusals (s : State) : (s.readClock).refusals = s.refusals := rfl
@[simp] theorem State.readClock_host (s : State) : (s.readClock).host = s.host := rfl
@[simp] theorem State.readClock_device (s : State) : (s.readClock).device = s.device := rfl
@[simp] theorem State.readClock_clock (s : State) : (s.readClock).clock = s.nowAnswer := rfl
@[simp] theorem State.readClock_ticks (s : State) : (s.readClock).ticks = s.ticks.tail := rfl

/-! ### goto -/

@[simp] theorem State.goto_handle (s : State) (l : Loc) : (s.goto l).handle = s.handle := rfl
@[simp] theorem State.goto_phase (s : State) (l : Loc) : (s.goto l).phase = s.phase := rfl
@[simp] theorem State.goto_cur (s : State) (l : Loc) : (s.goto l).cur = s.cur := rfl
@[simp] theorem State.goto_deadline (s : State) (l : Loc) : (s.goto l).deadline = s.deadline := rfl
@[simp] theorem State.goto_loc (s : State) (l : Loc) : (s.goto l).loc = l := rfl
@[simp] theorem State.goto_seq (s : State) (l : Loc) : (s.goto l).seq = s.seq := rfl
@[simp] theorem State.goto_idx (s : State) (l : Loc) : (s.goto l).idx = s.idx := rfl
@[simp] theorem State.goto_m (s : State) (l : Loc) : (s.goto l).m = s.m := rfl
@[simp] theorem State.goto_r (s : State) (l : Loc) : (s.goto l).r = s.r := rfl
@[simp] theorem State.goto_refused (s : State) (l : Loc) : (s.goto l).refused = s.refused := rfl
@[simp] theorem State.goto_caller (s : State) (l : Loc) : (s.goto l).caller = s.caller := rfl
@[simp] theorem State.goto_mem (s : State) (l : Loc) : (s.goto l).mem = s.mem := rfl
@[simp] theorem State.goto_port (s : State) (l : Loc) : (s.goto l).port = s.port := rfl
@[simp] theorem State.goto_events (s : State) (l : Loc) : (s.goto l).events = s.events := rfl
@[simp] theorem State.goto_returns (s : State) (l : Loc) : (s.goto l).returns = s.returns := rfl
@[simp] theorem State.goto_refusals (s : State) (l : Loc) : (s.goto l).refusals = s.refusals := rfl
@[simp] theorem State.goto_host (s : State) (l : Loc) : (s.goto l).host = s.host := rfl
@[simp] theorem State.goto_device (s : State) (l : Loc) : (s.goto l).device = s.device := rfl
@[simp] theorem State.goto_clock (s : State) (l : Loc) : (s.goto l).clock = s.clock := rfl
@[simp] theorem State.goto_ticks (s : State) (l : Loc) : (s.goto l).ticks = s.ticks := rfl

/-! ### refuse -/

@[simp] theorem State.refuse_handle (s : State) (reason : RefuseReason) :
    (s.refuse reason).handle = s.handle := rfl
@[simp] theorem State.refuse_phase (s : State) (reason : RefuseReason) :
    (s.refuse reason).phase = s.phase := rfl
@[simp] theorem State.refuse_cur (s : State) (reason : RefuseReason) :
    (s.refuse reason).cur = s.cur := rfl
@[simp] theorem State.refuse_deadline (s : State) (reason : RefuseReason) :
    (s.refuse reason).deadline = s.deadline := rfl
@[simp] theorem State.refuse_loc (s : State) (reason : RefuseReason) :
    (s.refuse reason).loc = s.loc := rfl
@[simp] theorem State.refuse_seq (s : State) (reason : RefuseReason) :
    (s.refuse reason).seq = s.seq := rfl
@[simp] theorem State.refuse_idx (s : State) (reason : RefuseReason) :
    (s.refuse reason).idx = s.idx := rfl
@[simp] theorem State.refuse_m (s : State) (reason : RefuseReason) :
    (s.refuse reason).m = s.m := rfl
@[simp] theorem State.refuse_r (s : State) (reason : RefuseReason) :
    (s.refuse reason).r = s.r := rfl
@[simp] theorem State.refuse_refused (s : State) (reason : RefuseReason) :
    (s.refuse reason).refused = true := rfl
@[simp] theorem State.refuse_caller (s : State) (reason : RefuseReason) :
    (s.refuse reason).caller = s.caller := rfl
@[simp] theorem State.refuse_mem (s : State) (reason : RefuseReason) :
    (s.refuse reason).mem = s.mem := rfl
@[simp] theorem State.refuse_port (s : State) (reason : RefuseReason) :
    (s.refuse reason).port = s.port := rfl
@[simp] theorem State.refuse_events (s : State) (reason : RefuseReason) :
    (s.refuse reason).events = s.events := rfl
@[simp] theorem State.refuse_returns (s : State) (reason : RefuseReason) :
    (s.refuse reason).returns = s.returns := rfl
@[simp] theorem State.refuse_refusals (s : State) (reason : RefuseReason) :
    (s.refuse reason).refusals = s.refusals ++ [reason] := rfl
@[simp] theorem State.refuse_host (s : State) (reason : RefuseReason) :
    (s.refuse reason).host = s.host := rfl
@[simp] theorem State.refuse_device (s : State) (reason : RefuseReason) :
    (s.refuse reason).device = s.device := rfl
@[simp] theorem State.refuse_clock (s : State) (reason : RefuseReason) :
    (s.refuse reason).clock = s.clock := rfl
@[simp] theorem State.refuse_ticks (s : State) (reason : RefuseReason) :
    (s.refuse reason).ticks = s.ticks := rfl

/-! ### recordSpeed -/

@[simp] theorem State.recordSpeed_handle (s : State) (v : Nat) (b : Bool) :
    (s.recordSpeed v b).handle = { s.handle with lastDivider := some (divider v), lastSpeed := some (nominal v), initialized := b } := rfl
@[simp] theorem State.recordSpeed_phase (s : State) (v : Nat) (b : Bool) :
    (s.recordSpeed v b).phase = s.phase := rfl
@[simp] theorem State.recordSpeed_cur (s : State) (v : Nat) (b : Bool) :
    (s.recordSpeed v b).cur = s.cur := rfl
@[simp] theorem State.recordSpeed_deadline (s : State) (v : Nat) (b : Bool) :
    (s.recordSpeed v b).deadline = s.deadline := rfl
@[simp] theorem State.recordSpeed_loc (s : State) (v : Nat) (b : Bool) :
    (s.recordSpeed v b).loc = s.loc := rfl
@[simp] theorem State.recordSpeed_seq (s : State) (v : Nat) (b : Bool) :
    (s.recordSpeed v b).seq = s.seq := rfl
@[simp] theorem State.recordSpeed_idx (s : State) (v : Nat) (b : Bool) :
    (s.recordSpeed v b).idx = s.idx := rfl
@[simp] theorem State.recordSpeed_m (s : State) (v : Nat) (b : Bool) :
    (s.recordSpeed v b).m = s.m := rfl
@[simp] theorem State.recordSpeed_r (s : State) (v : Nat) (b : Bool) :
    (s.recordSpeed v b).r = s.r := rfl
@[simp] theorem State.recordSpeed_refused (s : State) (v : Nat) (b : Bool) :
    (s.recordSpeed v b).refused = s.refused := rfl
@[simp] theorem State.recordSpeed_caller (s : State) (v : Nat) (b : Bool) :
    (s.recordSpeed v b).caller = s.caller := rfl
@[simp] theorem State.recordSpeed_mem (s : State) (v : Nat) (b : Bool) :
    (s.recordSpeed v b).mem = s.mem := rfl
@[simp] theorem State.recordSpeed_port (s : State) (v : Nat) (b : Bool) :
    (s.recordSpeed v b).port = s.port := rfl
@[simp] theorem State.recordSpeed_events (s : State) (v : Nat) (b : Bool) :
    (s.recordSpeed v b).events = s.events := rfl
@[simp] theorem State.recordSpeed_returns (s : State) (v : Nat) (b : Bool) :
    (s.recordSpeed v b).returns = s.returns := rfl
@[simp] theorem State.recordSpeed_refusals (s : State) (v : Nat) (b : Bool) :
    (s.recordSpeed v b).refusals = s.refusals := rfl
@[simp] theorem State.recordSpeed_host (s : State) (v : Nat) (b : Bool) :
    (s.recordSpeed v b).host = s.host := rfl
@[simp] theorem State.recordSpeed_device (s : State) (v : Nat) (b : Bool) :
    (s.recordSpeed v b).device = s.device := rfl
@[simp] theorem State.recordSpeed_clock (s : State) (v : Nat) (b : Bool) :
    (s.recordSpeed v b).clock = s.clock := rfl
@[simp] theorem State.recordSpeed_ticks (s : State) (v : Nat) (b : Bool) :
    (s.recordSpeed v b).ticks = s.ticks := rfl

/-! ### commandReturn -/

@[simp] theorem State.commandReturn_handle (s : State) (v : Return) :
    (s.commandReturn v).handle = s.handle := rfl
@[simp] theorem State.commandReturn_phase (s : State) (v : Return) :
    (s.commandReturn v).phase = .idle := rfl
@[simp] theorem State.commandReturn_cur (s : State) (v : Return) :
    (s.commandReturn v).cur = none := rfl
@[simp] theorem State.commandReturn_deadline (s : State) (v : Return) :
    (s.commandReturn v).deadline = none := rfl
@[simp] theorem State.commandReturn_loc (s : State) (v : Return) :
    (s.commandReturn v).loc = .idle := rfl
@[simp] theorem State.commandReturn_seq (s : State) (v : Return) :
    (s.commandReturn v).seq = [] := rfl
@[simp] theorem State.commandReturn_idx (s : State) (v : Return) :
    (s.commandReturn v).idx = 0 := rfl
@[simp] theorem State.commandReturn_m (s : State) (v : Return) : (s.commandReturn v).m = none := rfl
@[simp] theorem State.commandReturn_r (s : State) (v : Return) : (s.commandReturn v).r = none := rfl
@[simp] theorem State.commandReturn_refused (s : State) (v : Return) :
    (s.commandReturn v).refused = s.refused := rfl
@[simp] theorem State.commandReturn_caller (s : State) (v : Return) :
    (s.commandReturn v).caller = none := rfl
@[simp] theorem State.commandReturn_mem (s : State) (v : Return) :
    (s.commandReturn v).mem = s.mem := rfl
@[simp] theorem State.commandReturn_port (s : State) (v : Return) :
    (s.commandReturn v).port = s.port := rfl
@[simp] theorem State.commandReturn_events (s : State) (v : Return) :
    (s.commandReturn v).events = s.events := rfl
@[simp] theorem State.commandReturn_returns (s : State) (v : Return) :
    (s.commandReturn v).returns = s.returns ++ [v] := rfl
@[simp] theorem State.commandReturn_refusals (s : State) (v : Return) :
    (s.commandReturn v).refusals = s.refusals := rfl
@[simp] theorem State.commandReturn_host (s : State) (v : Return) :
    (s.commandReturn v).host = s.host := rfl
@[simp] theorem State.commandReturn_device (s : State) (v : Return) :
    (s.commandReturn v).device = s.device := rfl
@[simp] theorem State.commandReturn_clock (s : State) (v : Return) :
    (s.commandReturn v).clock = s.clock := rfl
@[simp] theorem State.commandReturn_ticks (s : State) (v : Return) :
    (s.commandReturn v).ticks = s.ticks := rfl

/-! ### enterEngine -/

@[simp] theorem State.enterEngine_handle (s : State) (k : Caller) (b : Message) :
    (s.enterEngine k b).handle = s.handle := rfl
@[simp] theorem State.enterEngine_phase (s : State) (k : Caller) (b : Message) :
    (s.enterEngine k b).phase = s.phase := rfl
@[simp] theorem State.enterEngine_cur (s : State) (k : Caller) (b : Message) :
    (s.enterEngine k b).cur = s.cur := rfl
@[simp] theorem State.enterEngine_deadline (s : State) (k : Caller) (b : Message) :
    (s.enterEngine k b).deadline = s.deadline := rfl
@[simp] theorem State.enterEngine_loc (s : State) (k : Caller) (b : Message) :
    (s.enterEngine k b).loc = .eng .validate := rfl
@[simp] theorem State.enterEngine_seq (s : State) (k : Caller) (b : Message) :
    (s.enterEngine k b).seq = s.seq := rfl
@[simp] theorem State.enterEngine_idx (s : State) (k : Caller) (b : Message) :
    (s.enterEngine k b).idx = s.idx := rfl
@[simp] theorem State.enterEngine_m (s : State) (k : Caller) (b : Message) :
    (s.enterEngine k b).m = some b := rfl
@[simp] theorem State.enterEngine_r (s : State) (k : Caller) (b : Message) :
    (s.enterEngine k b).r = s.r := rfl
@[simp] theorem State.enterEngine_refused (s : State) (k : Caller) (b : Message) :
    (s.enterEngine k b).refused = s.refused := rfl
@[simp] theorem State.enterEngine_caller (s : State) (k : Caller) (b : Message) :
    (s.enterEngine k b).caller = some k := rfl
@[simp] theorem State.enterEngine_mem (s : State) (k : Caller) (b : Message) :
    (s.enterEngine k b).mem = s.mem := rfl
@[simp] theorem State.enterEngine_port (s : State) (k : Caller) (b : Message) :
    (s.enterEngine k b).port = s.port := rfl
@[simp] theorem State.enterEngine_events (s : State) (k : Caller) (b : Message) :
    (s.enterEngine k b).events = s.events := rfl
@[simp] theorem State.enterEngine_returns (s : State) (k : Caller) (b : Message) :
    (s.enterEngine k b).returns = s.returns := rfl
@[simp] theorem State.enterEngine_refusals (s : State) (k : Caller) (b : Message) :
    (s.enterEngine k b).refusals = s.refusals := rfl
@[simp] theorem State.enterEngine_host (s : State) (k : Caller) (b : Message) :
    (s.enterEngine k b).host = s.host := rfl
@[simp] theorem State.enterEngine_device (s : State) (k : Caller) (b : Message) :
    (s.enterEngine k b).device = s.device := rfl
@[simp] theorem State.enterEngine_clock (s : State) (k : Caller) (b : Message) :
    (s.enterEngine k b).clock = s.clock := rfl
@[simp] theorem State.enterEngine_ticks (s : State) (k : Caller) (b : Message) :
    (s.enterEngine k b).ticks = s.ticks := rfl

/-! ### finish -/

@[simp] theorem State.finish_handle (s : State) (res : Result) :
    (s.finish res).handle = s.handle := rfl
@[simp] theorem State.finish_phase (s : State) (res : Result) :
    (s.finish res).phase = .complete := rfl
@[simp] theorem State.finish_cur (s : State) (res : Result) : (s.finish res).cur = s.cur := rfl
@[simp] theorem State.finish_deadline (s : State) (res : Result) :
    (s.finish res).deadline = s.deadline := rfl
@[simp] theorem State.finish_loc (s : State) (res : Result) :
    (s.finish res).loc = .eng (.exit .clearControl) := rfl
@[simp] theorem State.finish_seq (s : State) (res : Result) : (s.finish res).seq = s.seq := rfl
@[simp] theorem State.finish_idx (s : State) (res : Result) : (s.finish res).idx = s.idx := rfl
@[simp] theorem State.finish_m (s : State) (res : Result) : (s.finish res).m = s.m := rfl
@[simp] theorem State.finish_r (s : State) (res : Result) : (s.finish res).r = some res := rfl
@[simp] theorem State.finish_refused (s : State) (res : Result) :
    (s.finish res).refused = s.refused := rfl
@[simp] theorem State.finish_caller (s : State) (res : Result) :
    (s.finish res).caller = s.caller := rfl
@[simp] theorem State.finish_mem (s : State) (res : Result) : (s.finish res).mem = s.mem := rfl
@[simp] theorem State.finish_port (s : State) (res : Result) : (s.finish res).port = s.port := rfl
@[simp] theorem State.finish_events (s : State) (res : Result) :
    (s.finish res).events = s.events := rfl
@[simp] theorem State.finish_returns (s : State) (res : Result) :
    (s.finish res).returns = s.returns := rfl
@[simp] theorem State.finish_refusals (s : State) (res : Result) :
    (s.finish res).refusals = s.refusals := rfl
@[simp] theorem State.finish_host (s : State) (res : Result) : (s.finish res).host = s.host := rfl
@[simp] theorem State.finish_device (s : State) (res : Result) :
    (s.finish res).device = s.device := rfl
@[simp] theorem State.finish_clock (s : State) (res : Result) :
    (s.finish res).clock = s.clock := rfl
@[simp] theorem State.finish_ticks (s : State) (res : Result) :
    (s.finish res).ticks = s.ticks := rfl

/-! ### release -/

@[simp] theorem State.release_handle (s : State) : (s.release).handle = s.handle := rfl
@[simp] theorem State.release_phase (s : State) : (s.release).phase = .idle := rfl
@[simp] theorem State.release_cur (s : State) : (s.release).cur = none := rfl
@[simp] theorem State.release_deadline (s : State) : (s.release).deadline = none := rfl
@[simp] theorem State.release_loc (s : State) : (s.release).loc = s.loc := rfl
@[simp] theorem State.release_seq (s : State) : (s.release).seq = s.seq := rfl
@[simp] theorem State.release_idx (s : State) : (s.release).idx = s.idx := rfl
@[simp] theorem State.release_m (s : State) : (s.release).m = none := rfl
@[simp] theorem State.release_r (s : State) : (s.release).r = s.r := rfl
@[simp] theorem State.release_refused (s : State) : (s.release).refused = s.refused := rfl
@[simp] theorem State.release_caller (s : State) : (s.release).caller = none := rfl
@[simp] theorem State.release_mem (s : State) : (s.release).mem = s.mem := rfl
@[simp] theorem State.release_port (s : State) : (s.release).port = s.port := rfl
@[simp] theorem State.release_events (s : State) : (s.release).events = s.events := rfl
@[simp] theorem State.release_returns (s : State) : (s.release).returns = s.returns := rfl
@[simp] theorem State.release_refusals (s : State) : (s.release).refusals = s.refusals := rfl
@[simp] theorem State.release_host (s : State) : (s.release).host = s.host := rfl
@[simp] theorem State.release_device (s : State) : (s.release).device = s.device := rfl
@[simp] theorem State.release_clock (s : State) : (s.release).clock = s.clock := rfl
@[simp] theorem State.release_ticks (s : State) : (s.release).ticks = s.ticks := rfl

/-! ### nextMessage -/

@[simp] theorem State.nextMessage_handle (s : State) : (s.nextMessage).handle = s.handle := rfl
@[simp] theorem State.nextMessage_phase (s : State) : (s.nextMessage).phase = s.phase := rfl
@[simp] theorem State.nextMessage_cur (s : State) : (s.nextMessage).cur = s.cur := rfl
@[simp] theorem State.nextMessage_deadline (s : State) :
    (s.nextMessage).deadline = s.deadline := rfl
@[simp] theorem State.nextMessage_loc (s : State) : (s.nextMessage).loc = .seq := rfl
@[simp] theorem State.nextMessage_seq (s : State) : (s.nextMessage).seq = s.seq := rfl
@[simp] theorem State.nextMessage_idx (s : State) : (s.nextMessage).idx = s.idx + 1 := rfl
@[simp] theorem State.nextMessage_m (s : State) : (s.nextMessage).m = s.m := rfl
@[simp] theorem State.nextMessage_r (s : State) : (s.nextMessage).r = none := rfl
@[simp] theorem State.nextMessage_refused (s : State) : (s.nextMessage).refused = s.refused := rfl
@[simp] theorem State.nextMessage_caller (s : State) : (s.nextMessage).caller = s.caller := rfl
@[simp] theorem State.nextMessage_mem (s : State) : (s.nextMessage).mem = s.mem := rfl
@[simp] theorem State.nextMessage_port (s : State) : (s.nextMessage).port = s.port := rfl
@[simp] theorem State.nextMessage_events (s : State) : (s.nextMessage).events = s.events := rfl
@[simp] theorem State.nextMessage_returns (s : State) : (s.nextMessage).returns = s.returns := rfl
@[simp] theorem State.nextMessage_refusals (s : State) :
    (s.nextMessage).refusals = s.refusals := rfl
@[simp] theorem State.nextMessage_host (s : State) : (s.nextMessage).host = s.host := rfl
@[simp] theorem State.nextMessage_device (s : State) : (s.nextMessage).device = s.device := rfl
@[simp] theorem State.nextMessage_clock (s : State) : (s.nextMessage).clock = s.clock := rfl
@[simp] theorem State.nextMessage_ticks (s : State) : (s.nextMessage).ticks = s.ticks := rfl

/-! ### hostDone -/

@[simp] theorem State.hostDone_handle (s : State) (rest : List HostAct) :
    (s.hostDone rest).handle = s.handle := rfl
@[simp] theorem State.hostDone_phase (s : State) (rest : List HostAct) :
    (s.hostDone rest).phase = s.phase := rfl
@[simp] theorem State.hostDone_cur (s : State) (rest : List HostAct) :
    (s.hostDone rest).cur = s.cur := rfl
@[simp] theorem State.hostDone_deadline (s : State) (rest : List HostAct) :
    (s.hostDone rest).deadline = s.deadline := rfl
@[simp] theorem State.hostDone_loc (s : State) (rest : List HostAct) :
    (s.hostDone rest).loc = s.loc := rfl
@[simp] theorem State.hostDone_seq (s : State) (rest : List HostAct) :
    (s.hostDone rest).seq = s.seq := rfl
@[simp] theorem State.hostDone_idx (s : State) (rest : List HostAct) :
    (s.hostDone rest).idx = s.idx := rfl
@[simp] theorem State.hostDone_m (s : State) (rest : List HostAct) :
    (s.hostDone rest).m = s.m := rfl
@[simp] theorem State.hostDone_r (s : State) (rest : List HostAct) :
    (s.hostDone rest).r = s.r := rfl
@[simp] theorem State.hostDone_refused (s : State) (rest : List HostAct) :
    (s.hostDone rest).refused = s.refused := rfl
@[simp] theorem State.hostDone_caller (s : State) (rest : List HostAct) :
    (s.hostDone rest).caller = s.caller := rfl
@[simp] theorem State.hostDone_mem (s : State) (rest : List HostAct) :
    (s.hostDone rest).mem = s.mem := rfl
@[simp] theorem State.hostDone_port (s : State) (rest : List HostAct) :
    (s.hostDone rest).port = s.port := rfl
@[simp] theorem State.hostDone_events (s : State) (rest : List HostAct) :
    (s.hostDone rest).events = s.events := rfl
@[simp] theorem State.hostDone_returns (s : State) (rest : List HostAct) :
    (s.hostDone rest).returns = s.returns := rfl
@[simp] theorem State.hostDone_refusals (s : State) (rest : List HostAct) :
    (s.hostDone rest).refusals = s.refusals := rfl
@[simp] theorem State.hostDone_host (s : State) (rest : List HostAct) :
    (s.hostDone rest).host = rest := rfl
@[simp] theorem State.hostDone_device (s : State) (rest : List HostAct) :
    (s.hostDone rest).device = s.device := rfl
@[simp] theorem State.hostDone_clock (s : State) (rest : List HostAct) :
    (s.hostDone rest).clock = s.clock := rfl
@[simp] theorem State.hostDone_ticks (s : State) (rest : List HostAct) :
    (s.hostDone rest).ticks = s.ticks := rfl

/-! ### hostStore -/

@[simp] theorem State.hostStore_handle (s : State) (a : Nat) (b : Byte) :
    (s.hostStore a b).handle = s.handle := rfl
@[simp] theorem State.hostStore_phase (s : State) (a : Nat) (b : Byte) :
    (s.hostStore a b).phase = s.phase := rfl
@[simp] theorem State.hostStore_cur (s : State) (a : Nat) (b : Byte) :
    (s.hostStore a b).cur = s.cur := rfl
@[simp] theorem State.hostStore_deadline (s : State) (a : Nat) (b : Byte) :
    (s.hostStore a b).deadline = s.deadline := rfl
@[simp] theorem State.hostStore_loc (s : State) (a : Nat) (b : Byte) :
    (s.hostStore a b).loc = s.loc := rfl
@[simp] theorem State.hostStore_seq (s : State) (a : Nat) (b : Byte) :
    (s.hostStore a b).seq = s.seq := rfl
@[simp] theorem State.hostStore_idx (s : State) (a : Nat) (b : Byte) :
    (s.hostStore a b).idx = s.idx := rfl
@[simp] theorem State.hostStore_m (s : State) (a : Nat) (b : Byte) :
    (s.hostStore a b).m = s.m := rfl
@[simp] theorem State.hostStore_r (s : State) (a : Nat) (b : Byte) :
    (s.hostStore a b).r = s.r := rfl
@[simp] theorem State.hostStore_refused (s : State) (a : Nat) (b : Byte) :
    (s.hostStore a b).refused = s.refused := rfl
@[simp] theorem State.hostStore_caller (s : State) (a : Nat) (b : Byte) :
    (s.hostStore a b).caller = s.caller := rfl
@[simp] theorem State.hostStore_mem (s : State) (a : Nat) (b : Byte) :
    (s.hostStore a b).mem = s.mem.write a b := rfl
@[simp] theorem State.hostStore_port (s : State) (a : Nat) (b : Byte) :
    (s.hostStore a b).port = s.port := rfl
@[simp] theorem State.hostStore_events (s : State) (a : Nat) (b : Byte) :
    (s.hostStore a b).events = s.events := rfl
@[simp] theorem State.hostStore_returns (s : State) (a : Nat) (b : Byte) :
    (s.hostStore a b).returns = s.returns := rfl
@[simp] theorem State.hostStore_refusals (s : State) (a : Nat) (b : Byte) :
    (s.hostStore a b).refusals = s.refusals := rfl
@[simp] theorem State.hostStore_host (s : State) (a : Nat) (b : Byte) :
    (s.hostStore a b).host = s.host := rfl
@[simp] theorem State.hostStore_device (s : State) (a : Nat) (b : Byte) :
    (s.hostStore a b).device = s.device := rfl
@[simp] theorem State.hostStore_clock (s : State) (a : Nat) (b : Byte) :
    (s.hostStore a b).clock = s.clock := rfl
@[simp] theorem State.hostStore_ticks (s : State) (a : Nat) (b : Byte) :
    (s.hostStore a b).ticks = s.ticks := rfl

end Sys2Proof.Machine
end

