-- ==== Sys2Proof/Laws/Step.lean ====
section
/-! SUPPORT. What a step does at each label of `loc`, one equation per label; later proofs cite these and do
not unfold the fetch, the decoder or the dispatch. -/

namespace Sys2Proof.Machine

/-! ### The host's part of a step -/

theorem step_host_nil {s : State} (h : s.host = []) : step s = blockStep s := by
  simp [step, machineStep, h]

theorem step_host_pass {s : State} {rest : List HostAct} (h : s.host = .pass :: rest) :
    step s = blockStep (s.hostDone rest) := by
  simp [step, machineStep, h]

theorem step_host_issue {s : State} {w : Word} {ops : OperandRecord} {rest : List HostAct}
    (h : s.host = .issue w ops :: rest) : step s = issueStep w ops (s.hostDone rest) := by
  simp [step, machineStep, h]

theorem step_host_await {s : State} {rest : List HostAct} (h : s.host = .await :: rest) :
    step s = if s.loc.isIdle then .next (s.hostDone rest) else blockStep s := by
  simp [step, machineStep, h]

theorem step_host_store {s : State} {a : Nat} {b : Byte} {rest : List HostAct}
    (h : s.host = .store a b :: rest) :
    step s = if s.loc.isIdle then .next ((s.hostDone rest).hostStore a b) else blockStep s := by
  simp [step, machineStep, h]

theorem isIdle_iff (l : Loc) : l.isIdle = true ↔ l = .idle := by
  cases l <;> simp [Loc.isIdle]

theorem isIdle_false_iff (l : Loc) : l.isIdle = false ↔ l ≠ .idle := by
  cases l <;> simp [Loc.isIdle]

/-- Everything one step can be: the host's script is over or waits, and the block steps; or the host passes,
issues a command, or acts on an idle block. -/
theorem step_cases {s t : State} (h : step s = .next t) :
    blockStep s = .next t ∨
    (∃ rest, s.host = .pass :: rest ∧ blockStep (s.hostDone rest) = .next t) ∨
    (∃ w ops rest, s.host = .issue w ops :: rest ∧ issueStep w ops (s.hostDone rest) = .next t) ∨
    (∃ rest, s.host = .await :: rest ∧ s.loc = .idle ∧ t = s.hostDone rest) ∨
    (∃ a b rest, s.host = .store a b :: rest ∧ s.loc = .idle ∧ t = (s.hostDone rest).hostStore a b) := by
  cases hh : s.host with
  | nil => rw [step_host_nil hh] at h; exact .inl h
  | cons act rest =>
    cases act with
    | pass => rw [step_host_pass hh] at h; exact .inr (.inl ⟨rest, rfl, h⟩)
    | issue w ops =>
      rw [step_host_issue hh] at h
      exact .inr (.inr (.inl ⟨w, ops, rest, rfl, h⟩))
    | await =>
      rw [step_host_await hh] at h
      split at h
      · exact .inr (.inr (.inr (.inl ⟨rest, rfl, (isIdle_iff _).1 ‹_›, by cases h; rfl⟩)))
      · exact .inl h
    | store a b =>
      rw [step_host_store hh] at h
      split at h
      · exact .inr (.inr (.inr (.inr ⟨a, b, rest, rfl, (isIdle_iff _).1 ‹_›, by cases h; rfl⟩)))
      · exact .inl h

/-! ### Admission -/

/-- A command is refused, with the first reason that holds, or it starts. -/
theorem admission_cases (s : State) (own : Option RefuseReason) (started : State) :
    (∃ reason, s.refusal own = some reason ∧ s.admission own started = .next (s.refuse reason)) ∨
    (s.loc = .idle ∧ s.handle.base % 4 = 0 ∧ own = none ∧ s.admission own started = .next started) := by
  unfold State.admission
  cases hr : s.refusal own with
  | some reason => exact .inl ⟨reason, rfl, rfl⟩
  | none =>
    refine .inr ?_
    unfold State.refusal at hr
    split at hr
    · cases hr
    · split at hr
      · cases hr
      · rename_i h1 h2
        refine ⟨(isIdle_iff _).1 (by simpa using h1), by omega, hr, rfl⟩

theorem admission_of_free {s : State} (hl : s.loc = .idle) (hb : s.handle.base % 4 = 0) (started : State) :
    s.admission none started = .next started := by
  simp [State.admission, State.refusal, hl, Loc.isIdle, hb]

/-- Everything an issued word can do: it is refused, or one of the four commands starts. -/
theorem issueStep_cases {w : Word} {ops : OperandRecord} {s t : State} (h : issueStep w ops s = .next t) :
    (∃ reason, t = s.refuse reason) ∨
    (s.loc = .idle ∧ s.handle.base % 4 = 0 ∧
      ((∃ v, t = s.goto (.bc (.initClkt v))) ∨
       (∃ v, t = s.goto (.bc (.setSpeedDiv v))) ∨
       (∃ a, s.handle.initialized = true ∧ t = s.enterEngine .probe (probeMessage a)) ∨
       (∃ ms, s.handle.initialized = true ∧ ms.all messageWf = true ∧
         t = { s with seq := ms, idx := 0, loc := .seq }))) := by
  unfold issueStep decodeCommand at h
  split at h
  · cases h; exact .inl ⟨_, rfl⟩
  · rename_i i hi
    split at hi
    · split at hi
      · cases hi
        rcases admission_cases s none (s.goto (.bc (.initClkt ops.speedHz))) with ⟨r, -, e⟩ | ⟨h1, h2, -, e⟩
        · rw [show exec (.init ops.speedHz) s = _ from e] at h; cases h; exact .inl ⟨r, rfl⟩
        · rw [show exec (.init ops.speedHz) s = _ from e] at h; cases h
          exact .inr ⟨h1, h2, .inl ⟨_, rfl⟩⟩
      · split at hi
        · cases hi
          rcases admission_cases s none (s.goto (.bc (.setSpeedDiv ops.speedHz))) with ⟨r, -, e⟩ | ⟨h1, h2, -, e⟩
          · rw [show exec (.setSpeed ops.speedHz) s = _ from e] at h; cases h; exact .inl ⟨r, rfl⟩
          · rw [show exec (.setSpeed ops.speedHz) s = _ from e] at h; cases h
            exact .inr ⟨h1, h2, .inr (.inl ⟨_, rfl⟩)⟩
        · split at hi
          · cases hi
            rcases admission_cases s (if s.handle.initialized then none else some .probeBeforeInit)
              (s.enterEngine .probe (probeMessage ops.chipAddress)) with ⟨r, -, e⟩ | ⟨h1, h2, h3, e⟩
            · rw [show exec (.probe ops.chipAddress) s = _ from e] at h; cases h; exact .inl ⟨r, rfl⟩
            · rw [show exec (.probe ops.chipAddress) s = _ from e] at h; cases h
              refine .inr ⟨h1, h2, .inr (.inr (.inl ⟨_, ?_, rfl⟩))⟩
              by_contra hn
              simp [hn] at h3
          · split at hi
            · cases hi
              rcases admission_cases s (xferRefusal ops.messages s)
                { s with seq := ops.messages, idx := 0, loc := .seq } with ⟨r, -, e⟩ | ⟨h1, h2, h3, e⟩
              · rw [show exec (.xfer ops.messages) s = _ from e] at h; cases h; exact .inl ⟨r, rfl⟩
              · rw [show exec (.xfer ops.messages) s = _ from e] at h; cases h
                unfold xferRefusal at h3
                split at h3
                · cases h3
                · split at h3
                  · cases h3
                  · refine .inr ⟨h1, h2, .inr (.inr (.inr ⟨_, ?_, ?_, rfl⟩))⟩
                    · simpa using ‹¬s.handle.initialized = false›
                    · simpa using ‹¬ops.messages.all messageWf = false›
            · cases hi
    · cases hi

/-! ### The block's own step, label by label -/

theorem blockStep_silent {s : State} (h : accessAt s = none) : blockStep s = silentStep s := by
  simp [blockStep, h]

theorem blockStep_access {s t : State} {d : Descriptor} {i : Instr} (h : accessAt s = some d)
    (hd : decodeAccess d = some i) (he : exec i s = .next t) :
    blockStep s = afterAccess t (descriptorData d) := by
  simp [blockStep, h, accessStep, hd, he]

theorem blockStep_idle {s : State} (h : s.loc = .idle) : blockStep s = .next s := by
  rw [blockStep_silent (by simp [accessAt, h])]
  simp [silentStep, h]

theorem exec_divider (v : Nat) (s : State) :
    ∃ i, decodeAccess (writeDescriptor .div (divider v)) = some i ∧
      exec i s = .next (s.regWrite .div (divider v)) := by
  unfold divider
  split
  · exact ⟨_, decodeAccess_divFast, rfl⟩
  · exact ⟨_, decodeAccess_divStd, rfl⟩

theorem blockStep_initClkt {s : State} {v : Nat} (h : s.loc = .bc (.initClkt v)) :
    blockStep s = .next ((s.regWrite .clkt 0x00000000).goto (.bc (.initDiv v))) := by
  rw [blockStep_access (d := writeDescriptor .clkt Config.clktOff) (t := s.regWrite .clkt Config.clktOff)
    (by simp [accessAt, h, bcAccess]) decodeAccess_clktOff rfl]
  simp [afterAccess, h, afterBcAccess]
  rfl

theorem blockStep_initDiv {s : State} {v : Nat} (h : s.loc = .bc (.initDiv v)) :
    blockStep s =
      .next (((s.regWrite .div (divider v)).recordSpeed v true).commandReturn .okUnit) := by
  obtain ⟨i, hd, he⟩ := exec_divider v s
  rw [blockStep_access (by simp [accessAt, h, bcAccess]) hd he]
  simp [afterAccess, h, afterBcAccess]

theorem blockStep_setSpeedDiv {s : State} {v : Nat} (h : s.loc = .bc (.setSpeedDiv v)) :
    blockStep s = .next (((s.regWrite .div (divider v)).recordSpeed v
      s.handle.initialized).commandReturn .okUnit) := by
  obtain ⟨i, hd, he⟩ := exec_divider v s
  rw [blockStep_access (by simp [accessAt, h, bcAccess]) hd he]
  simp [afterAccess, h, afterBcAccess]

theorem blockStep_probeClkt {s : State} (h : s.loc = .bc .probeClkt) :
    blockStep s = .next ((s.regWrite .clkt 0x00000000).goto (.bc .probeDiv)) := by
  rw [blockStep_access (d := writeDescriptor .clkt Config.clktOff) (t := s.regWrite .clkt Config.clktOff)
    (by simp [accessAt, h, bcAccess]) decodeAccess_clktOff rfl]
  simp [afterAccess, h, afterBcAccess]
  rfl

theorem blockStep_probeDiv {s : State} (h : s.loc = .bc .probeDiv) :
    blockStep s = (s.regWrite .div 0x00001770).probeDone := by
  rw [blockStep_access (d := writeDescriptor .div (divider Config.speedStd))
    (t := s.regWrite .div 0x00001770) (by simp [accessAt, h, bcAccess]) decodeAccess_divStd rfl]
  simp [afterAccess, h, afterBcAccess]

theorem blockStep_seq {s : State} (h : s.loc = .seq) : blockStep s = seqStep s := by
  rw [blockStep_silent (by simp [accessAt, h])]
  simp [silentStep, h]

theorem blockStep_validate {s : State} (h : s.loc = .eng .validate) : blockStep s = validateStep s := by
  rw [blockStep_silent (by simp [accessAt, h, engineAccess])]
  simp [silentStep, h, silentEngineStep]

theorem blockStep_entryClearControl {s : State} (h : s.loc = .eng (.entry .clearControl)) :
    blockStep s = .next ((s.regWrite .c 0x00000030).goto (.eng (.entry .clearStatus))) := by
  rw [blockStep_access (d := writeDescriptor .c Config.cClear) (t := s.regWrite .c Config.cClear)
    (by simp [accessAt, h, engineAccess, entryAccess]) decodeAccess_clearControl rfl]
  simp [afterAccess, h, afterEngineAccess, EntryPoint.next]
  rfl

theorem blockStep_entryClearStatus {s : State} (h : s.loc = .eng (.entry .clearStatus)) :
    blockStep s = .next ((s.regWrite .s 0x00000302).goto (.eng (.entry .address))) := by
  rw [blockStep_access (d := writeDescriptor .s Config.sClear) (t := s.regWrite .s Config.sClear)
    (by simp [accessAt, h, engineAccess, entryAccess]) decodeAccess_clearStatus rfl]
  simp [afterAccess, h, afterEngineAccess, EntryPoint.next]
  rfl

theorem blockStep_entryAddress {s : State} {m : Message} (h : s.loc = .eng (.entry .address))
    (hm : s.m = some m) (ha : addressValid m.chipAddress = true) :
    blockStep s = .next ((s.regWrite .a (natWord m.chipAddress)).goto (.eng (.entry .dataLength))) := by
  rw [blockStep_access (d := writeDescriptor .a (natWord m.chipAddress))
    (t := s.regWrite .a (natWord m.chipAddress))
    (by simp [accessAt, h, engineAccess, entryAccess, hm, addressWord])
    (decodeAccess_address _ (of_decide_eq_true ha)) rfl]
  simp [afterAccess, h, afterEngineAccess, EntryPoint.next]

theorem messageWf_iff (m : Message) :
    messageWf m = true ↔ m.length = m.buffer.size ∧ m.length ≤ Config.dlenMax := by
  simp [messageWf]

theorem blockStep_entryLength {s : State} {m : Message} (h : s.loc = .eng (.entry .dataLength))
    (hm : s.m = some m) (hw : messageWf m = true) :
    blockStep s = .next ((s.regWrite .dlen (natWord m.length)).goto (.eng (.entry .start))) := by
  rw [blockStep_access (d := writeDescriptor .dlen (natWord m.length))
    (t := s.regWrite .dlen (natWord m.length))
    (by simp [accessAt, h, engineAccess, entryAccess, hm, lengthWord])
    (decodeAccess_length _ ((messageWf_iff m).1 hw).2) rfl]
  simp [afterAccess, h, afterEngineAccess, EntryPoint.next]

theorem blockStep_entryStart {s : State} {m : Message} (h : s.loc = .eng (.entry .start))
    (hm : s.m = some m) :
    blockStep s = .next ((s.regWrite .c (startWord m.direction)).goto (.eng (.entry .clock))) := by
  have hd : ∃ i, decodeAccess (writeDescriptor .c (startWord m.direction)) = some i ∧
      exec i s = .next (s.regWrite .c (startWord m.direction)) := by
    cases m.direction
    · exact ⟨.wrCStartR, by decide, rfl⟩
    · exact ⟨.wrCStartW, by decide, rfl⟩
  obtain ⟨i, hd, he⟩ := hd
  rw [blockStep_access (by simp [accessAt, h, engineAccess, entryAccess, hm]) hd he]
  simp [afterAccess, h, afterEngineAccess, EntryPoint.next]

theorem blockStep_entryClock {s : State} (h : s.loc = .eng (.entry .clock)) :
    blockStep s = entryClockStep s := by
  rw [blockStep_silent (by simp [accessAt, h, engineAccess, entryAccess])]
  simp [silentStep, h, silentEngineStep, silentEntryStep]

theorem blockStep_pollRead {s : State} (h : s.loc = .eng .pollRead) :
    blockStep s = .next ((s.regRead .s (s.answer .s)).goto (.eng (.classify (s.answer .s)))) := by
  rw [blockStep_access (d := s.statusRead) (t := s.regRead .s (s.answer .s))
    (by simp [accessAt, h, engineAccess]) (decodeAccess_readS _) rfl]
  simp [afterAccess, h, afterEngineAccess, State.statusRead]

theorem blockStep_classify {s : State} {w : Word} (h : s.loc = .eng (.classify w)) :
    blockStep s = classifyStep s w := by
  rw [blockStep_silent (by simp [accessAt, h, engineAccess])]
  simp [silentStep, h, silentEngineStep]

theorem blockStep_fillSample {s : State} (h : s.loc = .eng (.fill .sample)) (hw : s.pumpWanted = true) :
    blockStep s = .next ((s.regRead .s (s.answer .s)).goto
      (.eng (if statusTxd (s.answer .s) then .fill .load else .deadline))) := by
  rw [blockStep_access (d := s.statusRead) (t := s.regRead .s (s.answer .s))
    (by simp [accessAt, h, engineAccess, fillAccess, hw]) (decodeAccess_readS _) rfl]
  simp [afterAccess, h, afterEngineAccess, afterFillAccess, State.statusRead]

theorem blockStep_fillEnd {s : State} (h : s.loc = .eng (.fill .sample)) (hw : s.pumpWanted = false) :
    blockStep s = pumpEnd s .deadline := by
  rw [blockStep_silent (by simp [accessAt, h, engineAccess, fillAccess, hw])]
  simp [silentStep, h, silentEngineStep, silentFillStep]

theorem blockStep_fillLoad {s : State} (h : s.loc = .eng (.fill .load)) : blockStep s = loadStep s := by
  rw [blockStep_silent (by simp [accessAt, h, engineAccess, fillAccess])]
  simp [silentStep, h, silentEngineStep, silentFillStep]

theorem blockStep_fillPush {s : State} {b : Byte} (h : s.loc = .eng (.fill (.push b))) :
    blockStep s = (s.regWrite .fifo (zext32 b)).pumped (.fill .sample) := by
  rw [blockStep_access (d := writeDescriptor .fifo (zext32 b)) (t := s.regWrite .fifo (zext32 b))
    (by simp [accessAt, h, engineAccess, fillAccess]) (decodeAccess_byte b) rfl]
  simp [afterAccess, h, afterEngineAccess, afterFillAccess]

theorem blockStep_drainSample {s : State} (h : s.loc = .eng (.drain .sample))
    (hw : s.pumpWanted = true) :
    blockStep s = .next ((s.regRead .s (s.answer .s)).goto
      (.eng (if statusRxd (s.answer .s) then .drain .pop else .deadline))) := by
  rw [blockStep_access (d := s.statusRead) (t := s.regRead .s (s.answer .s))
    (by simp [accessAt, h, engineAccess, drainAccess, hw]) (decodeAccess_readS _) rfl]
  simp [afterAccess, h, afterEngineAccess, afterDrainAccess, State.statusRead]

theorem blockStep_drainEnd {s : State} (h : s.loc = .eng (.drain .sample)) (hw : s.pumpWanted = false) :
    blockStep s = pumpEnd s .deadline := by
  rw [blockStep_silent (by simp [accessAt, h, engineAccess, drainAccess, hw])]
  simp [silentStep, h, silentEngineStep, silentDrainStep]

theorem blockStep_drainPop {s : State} (h : s.loc = .eng (.drain .pop)) :
    blockStep s = .next ((s.regRead .fifo (s.answer .fifo)).goto
      (.eng (.drain (.store (trunc8 (s.answer .fifo)))))) := by
  rw [blockStep_access (d := readDescriptor .fifo (s.answer .fifo))
    (t := s.regRead .fifo (s.answer .fifo))
    (by simp [accessAt, h, engineAccess, drainAccess]) (decodeAccess_readFifo _) rfl]
  simp [afterAccess, h, afterEngineAccess, afterDrainAccess]

theorem blockStep_drainStore {s : State} {b : Byte} (h : s.loc = .eng (.drain (.store b))) :
    blockStep s = storeStep s b (.drain .sample) := by
  rw [blockStep_silent (by simp [accessAt, h, engineAccess, drainAccess])]
  simp [silentStep, h, silentEngineStep, silentDrainStep]

theorem blockStep_doneDrainSample {s : State} (h : s.loc = .eng (.doneDrain .sample))
    (hw : s.pumpWanted = true) :
    blockStep s = .next ((s.regRead .s (s.answer .s)).goto
      (.eng (if statusRxd (s.answer .s) then .doneDrain .pop else .doneRecheck))) := by
  rw [blockStep_access (d := s.statusRead) (t := s.regRead .s (s.answer .s))
    (by simp [accessAt, h, engineAccess, drainAccess, hw]) (decodeAccess_readS _) rfl]
  simp [afterAccess, h, afterEngineAccess, afterDrainAccess, State.statusRead]

theorem blockStep_doneDrainEnd {s : State} (h : s.loc = .eng (.doneDrain .sample))
    (hw : s.pumpWanted = false) : blockStep s = pumpEnd s .doneRecheck := by
  rw [blockStep_silent (by simp [accessAt, h, engineAccess, drainAccess, hw])]
  simp [silentStep, h, silentEngineStep, silentDrainStep]

theorem blockStep_doneDrainPop {s : State} (h : s.loc = .eng (.doneDrain .pop)) :
    blockStep s = .next ((s.regRead .fifo (s.answer .fifo)).goto
      (.eng (.doneDrain (.store (trunc8 (s.answer .fifo)))))) := by
  rw [blockStep_access (d := readDescriptor .fifo (s.answer .fifo))
    (t := s.regRead .fifo (s.answer .fifo))
    (by simp [accessAt, h, engineAccess, drainAccess]) (decodeAccess_readFifo _) rfl]
  simp [afterAccess, h, afterEngineAccess, afterDrainAccess]

theorem blockStep_doneDrainStore {s : State} {b : Byte} (h : s.loc = .eng (.doneDrain (.store b))) :
    blockStep s = storeStep s b (.doneDrain .sample) := by
  rw [blockStep_silent (by simp [accessAt, h, engineAccess, drainAccess])]
  simp [silentStep, h, silentEngineStep, silentDrainStep]

theorem blockStep_recheck {s : State} (h : s.loc = .eng .doneRecheck) :
    blockStep s = (s.regRead .s (s.answer .s)).recheck (s.answer .s) := by
  rw [blockStep_access (d := s.statusRead) (t := s.regRead .s (s.answer .s))
    (by simp [accessAt, h, engineAccess]) (decodeAccess_readS _) rfl]
  simp [afterAccess, h, afterEngineAccess, State.statusRead]

theorem blockStep_deadline {s : State} (h : s.loc = .eng .deadline) : blockStep s = deadlineStep s := by
  rw [blockStep_silent (by simp [accessAt, h, engineAccess])]
  simp [silentStep, h, silentEngineStep]

theorem blockStep_exitControl {s : State} (h : s.loc = .eng (.exit .clearControl)) :
    blockStep s = .next ((s.regWrite .c 0x00000030).goto (.eng (.exit .clearStatus))) := by
  rw [blockStep_access (d := writeDescriptor .c Config.cClear) (t := s.regWrite .c Config.cClear)
    (by simp [accessAt, h, engineAccess, exitAccess]) decodeAccess_clearControl rfl]
  simp [afterAccess, h, afterEngineAccess]
  rfl

theorem blockStep_exitStatus {s : State} (h : s.loc = .eng (.exit .clearStatus)) :
    blockStep s = (s.regWrite .s 0x00000302).exitDone := by
  rw [blockStep_access (d := writeDescriptor .s Config.sClear) (t := s.regWrite .s Config.sClear)
    (by simp [accessAt, h, engineAccess, exitAccess]) decodeAccess_clearStatus rfl]
  simp [afterAccess, h, afterEngineAccess]
  rfl

end Sys2Proof.Machine
end

