-- ==== Sys2Proof/Laws/Frame.lean ====
section
/-! SUPPORT. What the shared operations of a step may change, said once: the frame of an access, of moving
on after it, of a silent step, and of a block step. -/

namespace Sys2Proof.Machine

/-- The value of a conditional is one of its two branches. -/
theorem ite_eq_cases {α : Type} {p : Prop} [Decidable p] {x y z : α} (h : (if p then x else y) = z) :
    x = z ∨ y = z := by
  by_cases hp : p
  · exact .inl (by simpa [hp] using h)
  · exact .inr (by simpa [hp] using h)

/-- A decoded descriptor runs as one register read or one register write, nothing else. -/
theorem exec_of_decodeAccess {d : Descriptor} {i : Instr} (h : decodeAccess d = some i) (s : State) :
    ∃ r v, exec i s = .next (s.regRead r v) ∨ exec i s = .next (s.regWrite r v) := by
  rw [eq_fields d, decodeAccess_fields] at h
  have read : ∀ x r v, exec x s = .next (s.regRead r v) → some x = some i →
      ∃ r v, exec i s = .next (s.regRead r v) ∨ exec i s = .next (s.regWrite r v) := by
    intro x r v he hx
    cases hx
    exact ⟨r, v, .inl he⟩
  have write : ∀ x r v, exec x s = .next (s.regWrite r v) → some x = some i →
      ∃ r v, exec i s = .next (s.regRead r v) ∨ exec i s = .next (s.regWrite r v) := by
    intro x r v he hx
    cases hx
    exact ⟨r, v, .inr he⟩
  unfold kindOf at h
  rcases ite_eq_cases h with h | h
  · exact read _ _ _ rfl h
  rcases ite_eq_cases h with h | h
  · exact read _ _ _ rfl h
  iterate 10
    rcases ite_eq_cases h with h | h
    · exact write _ _ _ rfl h
  cases h

/-- What no control step changes: the trace and the ports, the inputs, the marks and the base. -/
structure ControlFrame (s t : State) : Prop where
  mem      : t.mem = s.mem
  port     : t.port = s.port
  events   : t.events = s.events
  refused  : t.refused = s.refused
  refusals : t.refusals = s.refusals
  host     : t.host = s.host
  device   : t.device = s.device
  clock    : t.clock = s.clock
  ticks    : t.ticks = s.ticks
  base     : t.handle.base = s.handle.base

theorem engineReturn_frame {s t : State} {res : Result} (h : s.engineReturn res = .next t) :
    ControlFrame s t := by
  unfold State.engineReturn at h
  split at h
  · cases h
  · cases h; constructor <;> rfl
  · split at h <;> cases h <;> constructor <;> rfl

/-- Moving on after an access is control only. -/
theorem afterAccess_frame {s t : State} {v : Word} (h : afterAccess s v = .next t) : ControlFrame s t := by
  unfold afterAccess at h
  split at h
  · cases h
  · unfold afterBcAccess at h
    split at h
    · cases h; constructor <;> rfl
    · cases h; constructor <;> rfl
    · cases h; constructor <;> rfl
    · cases h; constructor <;> rfl
    · unfold State.probeDone at h
      split at h <;> cases h
      constructor <;> rfl
  · cases h
  · unfold afterEngineAccess at h
    split at h
    · cases h
    · cases h; constructor <;> rfl
    · cases h; constructor <;> rfl
    · cases h
    · unfold afterFillAccess at h
      split at h
      · cases h; constructor <;> rfl
      · cases h
      · unfold State.pumped at h
        split at h <;> cases h
        constructor <;> rfl
    · unfold afterDrainAccess at h
      split at h <;> cases h <;> constructor <;> rfl
    · unfold afterDrainAccess at h
      split at h <;> cases h <;> constructor <;> rfl
    · unfold State.recheck at h
      split at h <;> cases h
      constructor <;> rfl
    · cases h
    · cases h; constructor <;> rfl
    · unfold State.exitDone at h
      split at h
      · exact engineReturn_frame h
      · cases h

/-- Everything a block step can do: one register read or write and control; or control alone; or one clock
read and control; or one BufRead, or one BufWrite and the cursor. -/
theorem blockStep_cases {s t : State} (h : blockStep s = .next t) :
    (∃ r v, ControlFrame (s.regRead r v) t) ∨ (∃ r v, ControlFrame (s.regWrite r v) t) ∨
    ControlFrame s t ∨ ControlFrame s.readClock t ∨ (∃ m i, ControlFrame (s.bufRead m i) t) ∨
    (∃ m c b, s.m = some m ∧ s.cur = some c ∧ c.position < m.length ∧
      (s.loc = .eng (.drain (.store b)) ∨ s.loc = .eng (.doneDrain (.store b))) ∧
      ControlFrame (s.bufWrite m c.position b) t) := by
  unfold blockStep at h
  split at h
  · rename_i d hd
    unfold accessStep at h
    split at h
    · cases h
    · rename_i i hi
      obtain ⟨r, v, he | he⟩ := exec_of_decodeAccess hi s
      · rw [he] at h; exact .inl ⟨r, v, afterAccess_frame h⟩
      · rw [he] at h; exact .inr (.inl ⟨r, v, afterAccess_frame h⟩)
  · have store : ∀ b next, storeStep s b next = .next t →
        ∃ m c, s.m = some m ∧ s.cur = some c ∧ c.position < m.length ∧
          ControlFrame (s.bufWrite m c.position b) t := by
      intro b next h
      unfold storeStep at h
      split at h
      · rename_i m c hm hc
        split at h
        · unfold State.pumped at h
          rw [State.bufWrite_cur, hc] at h
          cases h
          exact ⟨m, c, hm, hc, ‹_›, by constructor <;> rfl⟩
        · cases h
      · cases h
    have ends : ∀ done, pumpEnd s done = .next t → ControlFrame s t := by
      intro done h
      unfold pumpEnd at h
      split at h <;> cases h
      constructor <;> rfl
    unfold silentStep at h
    split at h
    · cases h; exact .inr (.inr (.inl (by constructor <;> rfl)))
    · cases h
    · unfold seqStep at h
      split at h <;> cases h <;> exact .inr (.inr (.inl (by constructor <;> rfl)))
    · unfold silentEngineStep at h
      split at h
      · unfold validateStep at h
        split at h
        · split at h
          · cases h; exact .inr (.inr (.inl (by constructor <;> rfl)))
          · exact .inr (.inr (.inl (engineReturn_frame h)))
        · cases h
      · unfold silentEntryStep at h
        split at h <;> try cases h
        unfold entryClockStep at h
        split at h <;> cases h
        exact .inr (.inr (.inr (.inl (by constructor <;> rfl))))
      · cases h
      · unfold classifyStep at h
        split at h
        · split at h
          · cases h; exact .inr (.inr (.inl (by constructor <;> rfl)))
          · cases h
            unfold doneStep
            split <;> exact .inr (.inr (.inl (by constructor <;> rfl)))
          all_goals cases h; exact .inr (.inr (.inl (by constructor <;> rfl)))
        · cases h
      · unfold silentFillStep at h
        split at h
        · exact .inr (.inr (.inl (ends _ h)))
        · unfold loadStep at h
          split at h
          · split at h
            · cases h
              exact .inr (.inr (.inr (.inr (.inl ⟨_, _, by constructor <;> rfl⟩))))
            · cases h
          · cases h
        · cases h
      · unfold silentDrainStep at h
        split at h
        · exact .inr (.inr (.inl (ends _ h)))
        · cases h
        · obtain ⟨m, c, h1, h2, h3, h4⟩ := store _ _ h
          exact .inr (.inr (.inr (.inr (.inr ⟨m, c, _, h1, h2, h3, .inl ‹_›, h4⟩))))
      · unfold silentDrainStep at h
        split at h
        · exact .inr (.inr (.inl (ends _ h)))
        · cases h
        · obtain ⟨m, c, h1, h2, h3, h4⟩ := store _ _ h
          exact .inr (.inr (.inr (.inr (.inr ⟨m, c, _, h1, h2, h3, .inr ‹_›, h4⟩))))
      · cases h
      · unfold deadlineStep at h
        split at h
        · split at h <;> cases h <;> exact .inr (.inr (.inr (.inl (by constructor <;> rfl))))
        · cases h
      · cases h

end Sys2Proof.Machine
end

