-- ==== Sys2Proof/Laws/Inversion.lean ====
section
/-! SUPPORT. What a block step leads to, label by label, for every state: `LabelStep` says it once, and
`blockStep_inv` reads it off a step. Proofs about every step split on `loc` and cite these. -/

namespace Sys2Proof.Machine

theorem decodeAccess_read (r : Reg) (v : Word) :
    decodeAccess (readDescriptor r v) = kindOf 0 r.index v := by
  rw [readDescriptor, descriptor_eq_fields, decodeAccess_fields]

theorem decodeAccess_write (r : Reg) (v : Word) :
    decodeAccess (writeDescriptor r v) = kindOf 1 r.index v := by
  rw [writeDescriptor, descriptor_eq_fields, decodeAccess_fields]

/-- A word of the A register that decodes runs as the write of that word. -/
theorem exec_of_address {v : Word} {i : Instr} (h : decodeAccess (writeDescriptor .a v) = some i)
    (s : State) : exec i s = .next (s.regWrite .a v) := by
  rw [decodeAccess_write] at h
  have hm : v &&& 0xFFFFFF80 = 0 := by
    by_contra hn
    simp only [kindOf, Reg.index, Reg.offset] at h
    simp at h
    exact hn h.1
  have hl := (and_mask7 v).1 hm
  have hv : natWord v.toNat = v := by simp [natWord]
  have hd := decodeAccess_address v.toNat (by simp only [Config.addrMax]; omega)
  rw [hv, decodeAccess_write, h] at hd
  rw [Option.some.inj hd]
  show Host.Outcome.next _ = _
  rw [hv]

/-- A word of the DLEN register that decodes runs as the write of that word. -/
theorem exec_of_length {v : Word} {i : Instr} (h : decodeAccess (writeDescriptor .dlen v) = some i)
    (s : State) : exec i s = .next (s.regWrite .dlen v) := by
  rw [decodeAccess_write] at h
  have hm : v &&& 0xFFFF0000 = 0 := by
    by_contra hn
    simp only [kindOf, Reg.index, Reg.offset] at h
    simp at h
    exact hn h.1
  have hl := (and_mask16 v).1 hm
  have hv : natWord v.toNat = v := by simp [natWord]
  have hd := decodeAccess_length v.toNat (by simp only [Config.dlenMax]; omega)
  rw [hv, decodeAccess_write, h] at hd
  rw [Option.some.inj hd]
  show Host.Outcome.next _ = _
  rw [hv]

/-- What the pump's loop test and status read lead to; `flag` is its flag, `move` the point that moves a
byte, `done` the label after the loop. -/
def SampleStep (s t : State) (flag : Word → Bool) (move done : Label) : Prop :=
  ∃ c, s.cur = some c ∧
    ((c.remaining = 0 ∧ t = s.goto (.eng done)) ∨
     (c.remaining ≠ 0 ∧
       t = (s.regRead .s (s.answer .s)).goto (.eng (if flag (s.answer .s) then move else done))))

/-- What a BufWrite of Drain leads to. -/
def StoreStep (s t : State) (b : Byte) (next : Label) : Prop :=
  ∃ m c, s.m = some m ∧ s.cur = some c ∧ c.position < m.length ∧
    t = { s.bufWrite m c.position b with cur := some c.advance, loc := .eng next }

/-- What a step at an engine label leads to. -/
def EngineStep (s t : State) : Label → Prop
  | .validate => ∃ m, s.m = some m ∧
      ((addressValid m.chipAddress = true ∧ t = s.goto (.eng (.entry .clearControl))) ∨
       (addressValid m.chipAddress = false ∧ s.engineReturn .invalidAddress = .next t))
  | .entry .clearControl => t = (s.regWrite .c 0x00000030).goto (.eng (.entry .clearStatus))
  | .entry .clearStatus => t = (s.regWrite .s 0x00000302).goto (.eng (.entry .address))
  | .entry .address => ∃ m, s.m = some m ∧
      t = (s.regWrite .a (natWord m.chipAddress)).goto (.eng (.entry .dataLength))
  | .entry .dataLength => ∃ m, s.m = some m ∧
      t = (s.regWrite .dlen (natWord m.length)).goto (.eng (.entry .start))
  | .entry .start => ∃ m, s.m = some m ∧
      t = (s.regWrite .c (startWord m.direction)).goto (.eng (.entry .clock))
  | .entry .clock => ∃ m, s.m = some m ∧
      t = { s.readClock with cur := some { remaining := m.length, position := 0 },
                             deadline := some (s.nowAnswer + Config.timeoutMs),
                             phase := .activePoll, loc := .eng .pollRead }
  | .pollRead => t = (s.regRead .s (s.answer .s)).goto (.eng (.classify (s.answer .s)))
  | .classify w => ∃ m c, s.m = some m ∧ s.cur = some c ∧
      ((∃ res, classify w c.remaining = .finish res ∧ t = s.finish res) ∨
       (classify w c.remaining = .doneCheck ∧ t = doneStep s m c) ∨
       (classify w c.remaining = .fill ∧ t = s.goto (.eng (.fill .sample))) ∨
       (classify w c.remaining = .drain ∧ t = s.goto (.eng (.drain .sample))) ∨
       (classify w c.remaining = .wait ∧ t = s.goto (.eng .deadline)))
  | .fill .sample => SampleStep s t statusTxd (.fill .load) .deadline
  | .fill .load => ∃ m c, s.m = some m ∧ s.cur = some c ∧ c.position < m.length ∧
      t = (s.bufRead m c.position).goto (.eng (.fill (.push (s.bufByte m c.position))))
  | .fill (.push b) => ∃ c, s.cur = some c ∧
      t = { s.regWrite .fifo (zext32 b) with cur := some c.advance, loc := .eng (.fill .sample) }
  | .drain .sample => SampleStep s t statusRxd (.drain .pop) .deadline
  | .drain .pop => t = (s.regRead .fifo (s.answer .fifo)).goto
      (.eng (.drain (.store (trunc8 (s.answer .fifo)))))
  | .drain (.store b) => StoreStep s t b (.drain .sample)
  | .doneDrain .sample => SampleStep s t statusRxd (.doneDrain .pop) .doneRecheck
  | .doneDrain .pop => t = (s.regRead .fifo (s.answer .fifo)).goto
      (.eng (.doneDrain (.store (trunc8 (s.answer .fifo)))))
  | .doneDrain (.store b) => StoreStep s t b (.doneDrain .sample)
  | .doneRecheck => ∃ c, s.cur = some c ∧
      t = (s.regRead .s (s.answer .s)).finish (readDoneResult (s.answer .s) c.remaining)
  | .deadline => ∃ d, s.deadline = some d ∧
      ((deadlinePassed s.nowAnswer d = true ∧ t = s.readClock.finish .timeout) ∨
       (deadlinePassed s.nowAnswer d = false ∧ t = s.readClock.goto (.eng .pollRead)))
  | .exit .clearControl => t = (s.regWrite .c 0x00000030).goto (.eng (.exit .clearStatus))
  | .exit .clearStatus => ∃ res, s.r = some res ∧
      (s.regWrite .s 0x00000302).engineReturn res = .next t

/-- What a step at a label leads to. -/
def LabelStep (s t : State) : Loc → Prop
  | .idle => t = s
  | .bc (.initClkt v) => t = (s.regWrite .clkt 0x00000000).goto (.bc (.initDiv v))
  | .bc (.initDiv v) =>
      t = ((s.regWrite .div (divider v)).recordSpeed v true).commandReturn .okUnit
  | .bc (.setSpeedDiv v) =>
      t = ((s.regWrite .div (divider v)).recordSpeed v s.handle.initialized).commandReturn .okUnit
  | .bc .probeClkt => t = (s.regWrite .clkt 0x00000000).goto (.bc .probeDiv)
  | .bc .probeDiv => ∃ res, s.r = some res ∧
      t = ((s.regWrite .div 0x00001770).recordSpeed Config.speedStd true).commandReturn
        (probeReturn res)
  | .seq => (∃ m, s.seq[s.idx]? = some m ∧ t = s.enterEngine .sequencer m) ∨
      (s.seq[s.idx]? = none ∧ t = s.commandReturn .okUnit)
  | .eng l => EngineStep s t l

theorem sampleStep_of {s t : State} {flag : Word → Bool} {move done : Label}
    (h1 : s.pumpWanted = true → t = (s.regRead .s (s.answer .s)).goto
      (.eng (if flag (s.answer .s) then move else done)))
    (h2 : s.pumpWanted = false → pumpEnd s done = .next t) : SampleStep s t flag move done := by
  unfold State.pumpWanted at h1 h2
  cases hc : s.cur with
  | none =>
    rw [hc] at h2
    have h := h2 rfl
    unfold pumpEnd at h
    rw [hc] at h
    cases h
  | some c =>
    rw [hc] at h1 h2
    refine ⟨c, hc, ?_⟩
    by_cases h0 : c.remaining = 0
    · have h := h2 (by simp [h0])
      unfold pumpEnd at h
      rw [hc] at h
      cases h
      exact .inl ⟨h0, rfl⟩
    · exact .inr ⟨h0, h1 (by simp [h0])⟩

theorem storeStep_inv {s t : State} {b : Byte} {next : Label} (h : storeStep s b next = .next t) :
    StoreStep s t b next := by
  unfold storeStep at h
  split at h
  · rename_i m c hm hc
    split at h
    · unfold State.pumped at h
      rw [State.bufWrite_cur, hc] at h
      cases h
      exact ⟨m, c, hm, hc, ‹_›, rfl⟩
    · cases h
  · cases h

theorem entryAccess_inv {s t : State} {p : EntryPoint} {r : Reg} {v : Message → Word}
    (hl : s.loc = .eng (.entry p)) (hp : entryAccess s p = s.m.map fun m => writeDescriptor r (v m))
    (hn : p ≠ .clock)
    (he : ∀ m i, decodeAccess (writeDescriptor r (v m)) = some i →
      exec i s = .next (s.regWrite r (v m)))
    (h : blockStep s = .next t) : ∃ m, s.m = some m ∧ t = (s.regWrite r (v m)).goto (.eng p.next) := by
  have ha : accessAt s = s.m.map fun m => writeDescriptor r (v m) := by
    unfold accessAt; rw [hl]; exact hp
  cases hm : s.m with
  | none =>
    rw [hm] at ha
    rw [blockStep_silent ha] at h
    unfold silentStep at h
    rw [hl] at h
    cases p <;> first | exact absurd rfl hn | cases h
  | some m =>
    rw [hm] at ha
    refine ⟨m, rfl, ?_⟩
    cases hd : decodeAccess (writeDescriptor r (v m)) with
    | none =>
      unfold blockStep accessStep at h
      rw [ha] at h
      simp only [Option.map_some, hd] at h
      cases h
    | some i =>
      rw [blockStep_access ha hd (he m i hd)] at h
      unfold afterAccess at h
      simp only [State.regWrite_loc, hl, afterEngineAccess] at h
      cases h
      rfl

theorem exec_of_start {d : Direction} {i : Instr}
    (h : decodeAccess (writeDescriptor .c (startWord d)) = some i) (s : State) :
    exec i s = .next (s.regWrite .c (startWord d)) := by
  cases d
  · rw [show decodeAccess (writeDescriptor .c (startWord .read)) = some .wrCStartR by decide] at h
    cases h; rfl
  · rw [show decodeAccess (writeDescriptor .c (startWord .write)) = some .wrCStartW by decide] at h
    cases h; rfl

/-- Everything a block step can lead to. -/
theorem blockStep_inv {s t : State} (h : blockStep s = .next t) : LabelStep s t s.loc := by
  cases hl : s.loc with
  | idle => rw [blockStep_idle hl] at h; cases h; rfl
  | bc p =>
    cases p with
    | initClkt v => rw [blockStep_initClkt hl] at h; cases h; rfl
    | initDiv v => rw [blockStep_initDiv hl] at h; cases h; rfl
    | setSpeedDiv v => rw [blockStep_setSpeedDiv hl] at h; cases h; rfl
    | probeClkt => rw [blockStep_probeClkt hl] at h; cases h; rfl
    | probeDiv =>
      rw [blockStep_probeDiv hl] at h
      unfold State.probeDone at h
      split at h
      · rename_i res hr
        cases h
        exact ⟨res, hr, rfl⟩
      · cases h
  | seq =>
    rw [blockStep_seq hl] at h
    unfold seqStep at h
    split at h
    · cases h; exact .inl ⟨_, ‹_›, rfl⟩
    · cases h; exact .inr ⟨‹_›, rfl⟩
  | eng l =>
    cases l with
    | validate =>
      rw [blockStep_validate hl] at h
      unfold validateStep at h
      split at h
      · rename_i m hm
        refine ⟨m, hm, ?_⟩
        split at h
        · cases h; exact .inl ⟨‹_›, rfl⟩
        · exact .inr ⟨by simpa using ‹¬addressValid m.chipAddress = true›, h⟩
      · cases h
    | entry p =>
      cases p with
      | clearControl => rw [blockStep_entryClearControl hl] at h; cases h; rfl
      | clearStatus => rw [blockStep_entryClearStatus hl] at h; cases h; rfl
      | address =>
        exact entryAccess_inv (v := addressWord) hl rfl (by decide)
          (fun m i hd => exec_of_address hd s) h
      | dataLength =>
        exact entryAccess_inv (v := lengthWord) hl rfl (by decide)
          (fun m i hd => exec_of_length hd s) h
      | start =>
        exact entryAccess_inv (v := fun m => startWord m.direction) hl rfl (by decide)
          (fun m i hd => exec_of_start hd s) h
      | clock =>
        rw [blockStep_entryClock hl] at h
        unfold entryClockStep at h
        split at h
        · cases h; exact ⟨_, ‹_›, rfl⟩
        · cases h
    | pollRead => rw [blockStep_pollRead hl] at h; cases h; rfl
    | classify w =>
      rw [blockStep_classify hl] at h
      unfold classifyStep at h
      split at h
      · rename_i m c hm hc
        refine ⟨m, c, hm, hc, ?_⟩
        split at h <;> cases h
        · exact .inl ⟨_, ‹_›, rfl⟩
        · exact .inr (.inl ⟨‹_›, rfl⟩)
        · exact .inr (.inr (.inl ⟨‹_›, rfl⟩))
        · exact .inr (.inr (.inr (.inl ⟨‹_›, rfl⟩)))
        · exact .inr (.inr (.inr (.inr ⟨‹_›, rfl⟩)))
      · cases h
    | fill p =>
      cases p with
      | sample =>
        refine sampleStep_of (fun hw => ?_) (fun hw => ?_)
        · rw [blockStep_fillSample hl hw] at h; cases h; rfl
        · rw [blockStep_fillEnd hl hw] at h; exact h
      | load =>
        rw [blockStep_fillLoad hl] at h
        unfold loadStep at h
        split at h
        · split at h
          · cases h; exact ⟨_, _, ‹_›, ‹_›, ‹_›, rfl⟩
          · cases h
        · cases h
      | push b =>
        rw [blockStep_fillPush hl] at h
        unfold State.pumped at h
        split at h
        · cases h; exact ⟨_, ‹_›, rfl⟩
        · cases h
    | drain p =>
      cases p with
      | sample =>
        refine sampleStep_of (fun hw => ?_) (fun hw => ?_)
        · rw [blockStep_drainSample hl hw] at h; cases h; rfl
        · rw [blockStep_drainEnd hl hw] at h; exact h
      | pop => rw [blockStep_drainPop hl] at h; cases h; rfl
      | store b => rw [blockStep_drainStore hl] at h; exact storeStep_inv h
    | doneDrain p =>
      cases p with
      | sample =>
        refine sampleStep_of (fun hw => ?_) (fun hw => ?_)
        · rw [blockStep_doneDrainSample hl hw] at h; cases h; rfl
        · rw [blockStep_doneDrainEnd hl hw] at h; exact h
      | pop => rw [blockStep_doneDrainPop hl] at h; cases h; rfl
      | store b => rw [blockStep_doneDrainStore hl] at h; exact storeStep_inv h
    | doneRecheck =>
      rw [blockStep_recheck hl] at h
      unfold State.recheck at h
      split at h
      · cases h; exact ⟨_, ‹_›, rfl⟩
      · cases h
    | deadline =>
      rw [blockStep_deadline hl] at h
      unfold deadlineStep at h
      split at h
      · rename_i d hd
        refine ⟨d, hd, ?_⟩
        split at h <;> cases h
        · exact .inl ⟨‹_›, rfl⟩
        · exact .inr ⟨by simpa using ‹¬deadlinePassed s.nowAnswer d = true›, rfl⟩
      · cases h
    | exit p =>
      cases p with
      | clearControl => rw [blockStep_exitControl hl] at h; cases h; rfl
      | clearStatus =>
        rw [blockStep_exitStatus hl] at h
        unfold State.exitDone at h
        split at h
        · exact ⟨_, ‹_›, h⟩
        · cases h

/-- What the engine's return leads to. -/
theorem engineReturn_inv {s t : State} {res : Result} (h : s.engineReturn res = .next t) :
    (s.caller = some .probe ∧ t = { s.release with r := some res, loc := .bc .probeClkt }) ∨
    (s.caller = some .sequencer ∧ res = .ok ∧ t = s.release.nextMessage) ∨
    (s.caller = some .sequencer ∧ res ≠ .ok ∧ t = s.commandReturn (.err res)) := by
  unfold State.engineReturn at h
  split at h
  · cases h
  · cases h; exact .inl ⟨‹_›, rfl⟩
  · split at h <;> cases h
    · exact .inr (.inl ⟨‹_›, ‹_›, rfl⟩)
    · exact .inr (.inr ⟨‹_›, ‹_›, rfl⟩)

end Sys2Proof.Machine
end

