-- ==== Sys2Proof/Laws/Memory.lean ====
section
/-! SUPPORT. The laws of the buffer space: a read after a write, and the canonical form. -/

namespace Sys2Proof.Machine

/-- Every listed address is above a bound. -/
abbrev Memory.above (k : Nat) (mem : Memory) : Prop := ∀ c ∈ mem, k < c.1

theorem Memory.wf_cons (k : Nat) (v : Byte) (rest : Memory) :
    Memory.wf ((k, v) :: rest) = true ↔
      v ≠ Memory.unlisted ∧ Memory.above k rest ∧ Memory.wf rest = true := by
  simp [Memory.wf, Memory.above, and_assoc]

@[simp] theorem Memory.wf_nil : Memory.wf [] = true := rfl

@[simp] theorem Memory.write_nil (a : Nat) (b : Byte) : Memory.write [] a b = Memory.cell a b := rfl

theorem Memory.above_cell {j a : Nat} (b : Byte) (h : j < a) : Memory.above j (Memory.cell a b) := by
  intro c hc
  unfold Memory.cell at hc
  split at hc
  · simp at hc
  · simp at hc
    simp [hc, h]

theorem Memory.above_write {k : Nat} {mem : Memory} (h : Memory.above k mem) {a : Nat} (ha : k < a)
    (b : Byte) : Memory.above k (mem.write a b) := by
  induction mem with
  | nil => exact Memory.above_cell b ha
  | cons c rest ih =>
    obtain ⟨j, v⟩ := c
    have hr : Memory.above k rest := fun c hc => h c (List.mem_cons_of_mem _ hc)
    have hj : k < j := h (j, v) List.mem_cons_self
    unfold Memory.write
    split
    · intro c hc
      rcases List.mem_append.1 hc with hc | hc
      · exact Memory.above_cell b ha c hc
      · exact h c hc
    · split
      · intro c hc
        rcases List.mem_append.1 hc with hc | hc
        · exact Memory.above_cell b ha c hc
        · exact hr c hc
      · intro c hc
        rcases List.mem_cons.1 hc with rfl | hc
        · exact hj
        · exact ih hr c hc

theorem Memory.wf_cell_append {a : Nat} {b : Byte} {mem : Memory} (h : mem.wf = true)
    (ha : Memory.above a mem) : Memory.wf (Memory.cell a b ++ mem) = true := by
  unfold Memory.cell
  split
  · simpa using h
  · exact (Memory.wf_cons a b mem).2 ⟨by assumption, ha, h⟩

/-- A write keeps the canonical form. -/
theorem Memory.wf_write {mem : Memory} (h : mem.wf = true) (a : Nat) (b : Byte) :
    (mem.write a b).wf = true := by
  induction mem with
  | nil => simpa using Memory.wf_cell_append (a := a) (b := b) h (by intro c hc; simp at hc)
  | cons c rest ih =>
    obtain ⟨k, v⟩ := c
    obtain ⟨hv, hk, hr⟩ := (Memory.wf_cons k v rest).1 h
    unfold Memory.write
    split
    · rename_i hlt
      refine Memory.wf_cell_append h ?_
      intro c hc
      rcases List.mem_cons.1 hc with rfl | hc
      · exact hlt
      · exact Nat.lt_trans hlt (hk c hc)
    · split
      · rename_i heq
        subst heq
        exact Memory.wf_cell_append hr hk
      · exact (Memory.wf_cons k v _).2 ⟨hv, Memory.above_write hk (by omega) b, ih hr⟩

theorem Memory.read_of_above {mem : Memory} {a : Nat} (h : Memory.above a mem) :
    mem.read a = Memory.unlisted := by
  induction mem with
  | nil => rfl
  | cons c rest ih =>
    obtain ⟨k, v⟩ := c
    have hk : a < k := h (k, v) List.mem_cons_self
    unfold Memory.read
    rw [if_neg (by omega)]
    exact ih fun c hc => h c (List.mem_cons_of_mem _ hc)

theorem Memory.read_cell_append_same {a : Nat} {b : Byte} {mem : Memory} (h : Memory.above a mem) :
    Memory.read (Memory.cell a b ++ mem) a = b := by
  unfold Memory.cell
  split
  · rename_i hb
    simpa [hb] using Memory.read_of_above h
  · simp [Memory.read]

theorem Memory.read_cell_append_other {a a' : Nat} {b : Byte} {mem : Memory} (h : a' ≠ a) :
    Memory.read (Memory.cell a b ++ mem) a' = mem.read a' := by
  unfold Memory.cell
  split
  · simp
  · show Memory.read ((a, b) :: mem) a' = mem.read a'
    rw [Memory.read, if_neg (by omega)]

/-- A read after a write to the same address gives the byte written. -/
theorem Memory.read_write_same {mem : Memory} (h : mem.wf = true) (a : Nat) (b : Byte) :
    (mem.write a b).read a = b := by
  induction mem with
  | nil => simpa using Memory.read_cell_append_same (b := b) (mem := []) (a := a) (by intro c hc; simp at hc)
  | cons c rest ih =>
    obtain ⟨k, v⟩ := c
    obtain ⟨hv, hk, hr⟩ := (Memory.wf_cons k v rest).1 h
    unfold Memory.write
    split
    · rename_i hlt
      apply Memory.read_cell_append_same
      intro c hc
      rcases List.mem_cons.1 hc with rfl | hc
      · exact hlt
      · exact Nat.lt_trans hlt (hk c hc)
    · split
      · rename_i heq
        subst heq
        exact Memory.read_cell_append_same hk
      · rw [Memory.read, if_neg (by omega)]
        exact ih hr

/-- A write leaves every other address alone. -/
theorem Memory.read_write_other {a a' : Nat} (h : a' ≠ a) (mem : Memory) (b : Byte) :
    (mem.write a b).read a' = mem.read a' := by
  induction mem with
  | nil => simpa using Memory.read_cell_append_other (b := b) (mem := []) h
  | cons c rest ih =>
    obtain ⟨k, v⟩ := c
    unfold Memory.write
    split
    · exact Memory.read_cell_append_other h
    · split
      · rename_i heq
        subst heq
        rw [Memory.read_cell_append_other h, Memory.read, if_neg (by omega)]
      · by_cases hk : k = a'
        · simp [Memory.read, hk]
        · simp [Memory.read, hk, ih]

end Sys2Proof.Machine
end

