-- ==== Sys2Proof/Laws/PerInstr.lean ====
section
/-! SUPPORT. Statements made per instruction. RoundTrip: the words of a well-formed instruction decode to
it, one lemma per constructor. -/

namespace Sys2Proof.Laws.RoundTrip

/-- Encoding a well-formed instruction and decoding its words gives it back. -/
def Statement (i : Instr) : Prop := i.wf = true → decode (encode i) = some i

theorem init (speedHz : Nat) : Statement (.init speedHz) := fun _ => rfl

theorem setSpeed (speedHz : Nat) : Statement (.setSpeed speedHz) := fun _ => rfl

theorem probe (chipAddress : Nat) : Statement (.probe chipAddress) := fun _ => rfl

theorem xfer (messages : List Message) : Statement (.xfer messages) := fun _ => rfl

theorem rdS (data : Word) : Statement (.rdS data) := fun _ => decodeAccess_readS data

theorem rdFifo (data : Word) : Statement (.rdFifo data) := fun _ => decodeAccess_readFifo data

theorem wrCClear : Statement .wrCClear := fun _ => decodeAccess_clearControl

theorem wrCStartW : Statement .wrCStartW := fun _ => by decide

theorem wrCStartR : Statement .wrCStartR := fun _ => by decide

theorem wrSClear : Statement .wrSClear := fun _ => decodeAccess_clearStatus

theorem wrDlen (length : Nat) : Statement (.wrDlen length) :=
  fun h => decodeAccess_length length (of_decide_eq_true h)

theorem wrA (chipAddress : Nat) : Statement (.wrA chipAddress) :=
  fun h => decodeAccess_address chipAddress (of_decide_eq_true h)

theorem wrFifo (byte : Byte) : Statement (.wrFifo byte) := fun _ => decodeAccess_byte byte

theorem wrDivFast : Statement .wrDivFast := fun _ => decodeAccess_divFast

theorem wrDivStd : Statement .wrDivStd := fun _ => decodeAccess_divStd

theorem wrClkt : Statement .wrClkt := fun _ => decodeAccess_clktOff

end Sys2Proof.Laws.RoundTrip
end

