-- ==== Sys2Proof/Laws/Run.lean ====
section
/-! SUPPORT. Running several steps: how `runSteps` composes, the equations of the silent steps once the
message and the cursor are known, and one whole iteration of each pump. -/

namespace Sys2Proof.Machine

theorem runSteps_succ {n : Nat} {s t : State} (h : step s = .next t) :
    runSteps (n + 1) s = runSteps n t := by
  simp [runSteps, h]

theorem runSteps_add {n k : Nat} {s t : State} (h : runSteps n s = .next t) :
    runSteps (n + k) s = runSteps k t := by
  induction n generalizing s with
  | zero => simp [runSteps] at h; subst h; simp
  | succ n ih =>
    rw [Nat.succ_add]
    cases hs : step s with
    | next u => rw [runSteps_succ hs] at h ⊢; exact ih h
    | fault => simp [runSteps, hs] at h
    | refused => simp [runSteps, hs] at h

/-- With the host's script over, a step is the block's. -/
theorem step_of_block {s : State} {o : Out} (hh : s.host = []) (h : blockStep s = o) : step s = o := by
  rw [step_host_nil hh, h]

/-! ### Values -/

theorem divider_eq (v : Nat) : divider v = if v = 400000 then 1500 else 6000 := rfl

theorem nominal_eq (v : Nat) : nominal v = if v = 400000 then 400000 else 100000 := rfl

theorem startWord_read : startWord .read = 0x00008081 := rfl

theorem startWord_write : startWord .write = 0x00008080 := rfl

/-! ### Silent steps, the message and the cursor known -/

theorem validateStep_eq {s : State} {m : Message} (hm : s.m = some m) :
    validateStep s = if addressValid m.chipAddress then .next (s.goto (.eng (.entry .clearControl)))
      else s.engineReturn .invalidAddress := by
  unfold validateStep; rw [hm]

theorem entryClockStep_eq {s : State} {m : Message} (hm : s.m = some m) :
    entryClockStep s = .next { s.readClock with
      cur := some { remaining := m.length, position := 0 },
      deadline := some (s.nowAnswer + Config.timeoutMs),
      phase := .activePoll,
      loc := .eng .pollRead } := by
  unfold entryClockStep; rw [hm]

theorem classifyStep_eq {s : State} {m : Message} {c : Cursor} {w : Word} (hm : s.m = some m)
    (hc : s.cur = some c) :
    classifyStep s w = (match classify w c.remaining with
      | .finish res => .next (s.finish res)
      | .doneCheck => .next (doneStep s m c)
      | .fill => .next (s.goto (.eng (.fill .sample)))
      | .drain => .next (s.goto (.eng (.drain .sample)))
      | .wait => .next (s.goto (.eng .deadline))) := by
  cases hd : classify w c.remaining <;> simp only [classifyStep, hm, hc, hd]

theorem storeStep_eq {s : State} {m : Message} {c : Cursor} (hm : s.m = some m) (hc : s.cur = some c)
    (hp : c.position < m.length) (b : Byte) (next : Label) :
    storeStep s b next =
      .next { s.bufWrite m c.position b with cur := some c.advance, loc := .eng next } := by
  simp [storeStep, hm, hc, hp, State.pumped]

theorem pumpWanted_of {s : State} {c : Cursor} (h : s.cur = some c) :
    s.pumpWanted = decide (c.remaining ≠ 0) := by
  simp [State.pumpWanted, h]

theorem pumpEnd_eq {s : State} {c : Cursor} (h : s.cur = some c) (done : Label) :
    pumpEnd s done = .next (s.goto (.eng done)) := by
  simp [pumpEnd, h]

theorem answer_cons {s : State} {w : Word} {rest : List Word} (h : s.device = w :: rest) (r : Reg) :
    s.answer r = w := by
  simp [State.answer, h]

theorem nowAnswer_cons {s : State} {a : Nat} {rest : List Nat} (h : s.ticks = a :: rest) :
    s.nowAnswer = s.clock + a := by
  simp [State.nowAnswer, State.advance, h]

/-! ### Fill -/

theorem fill_end {s : State} {c : Cursor} (hl : s.loc = .eng (.fill .sample)) (hh : s.host = [])
    (hc : s.cur = some c) (h0 : c.remaining = 0) : step s = .next (s.goto (.eng .deadline)) := by
  rw [step_of_block hh (blockStep_fillEnd hl (by rw [pumpWanted_of hc]; simpa using h0)),
    pumpEnd_eq hc]

theorem fill_stop {s : State} {c : Cursor} {w : Word} (hl : s.loc = .eng (.fill .sample))
    (hh : s.host = []) (hc : s.cur = some c) (h0 : c.remaining ≠ 0) (ha : s.answer .s = w)
    (hw : statusTxd w = false) :
    step s = .next ((s.regRead .s w).goto (.eng .deadline)) := by
  rw [step_of_block hh (blockStep_fillSample hl (by rw [pumpWanted_of hc]; simpa using h0)), ha, hw]
  simp

/-- One byte of Fill: three steps. -/
theorem fill_iteration {s : State} {m : Message} {c : Cursor} {w : Word}
    (hl : s.loc = .eng (.fill .sample)) (hh : s.host = []) (hm : s.m = some m) (hc : s.cur = some c)
    (h0 : c.remaining ≠ 0) (hp : c.position < m.length) (ha : s.answer .s = w)
    (hw : statusTxd w = true) :
    runSteps 3 s = .next { s with
      events := s.events ++ [.read .s w, .bufRead c.position (s.mem.read (m.buffer.base + c.position)),
        .write .fifo (zext32 (s.mem.read (m.buffer.base + c.position)))],
      device := s.device.tail,
      cur := some c.advance,
      port := { s.port with fifo := zext32 (s.mem.read (m.buffer.base + c.position)) } } := by
  have e1 : step s = .next ((s.regRead .s w).goto (.eng (.fill .load))) := by
    rw [step_of_block hh (blockStep_fillSample hl (by rw [pumpWanted_of hc]; simpa using h0)), ha, hw]
    simp
  rw [runSteps_succ e1]
  have e2 : step ((s.regRead .s w).goto (.eng (.fill .load))) =
      .next ((((s.regRead .s w).goto (.eng (.fill .load))).bufRead m c.position).goto
        (.eng (.fill (.push (s.mem.read (m.buffer.base + c.position)))))) := by
    rw [step_of_block (by simpa using hh) (blockStep_fillLoad rfl)]
    simp [loadStep, hm, hc, hp, State.bufByte, bufAddress]
  rw [runSteps_succ e2]
  unfold runSteps
  rw [step_of_block (by simpa [State.bufRead] using hh) (blockStep_fillPush rfl)]
  simp only [runSteps]
  clear e1 e2 ha
  cases s
  simp_all [State.pumped, State.bufRead, State.record, State.goto, State.regRead, State.regWrite,
    Port.set, State.bufByte, bufAddress]

/-! ### Drain

`label` wraps the points of a Drain and `done` is where its caller goes on: the Drain of the poll loop, or the
final one of the DONE branch. -/

/-- The two Drains (42_transfer_engine.md R166, R169). -/
def DrainLabels (label : DrainPoint → Label) (done : Label) : Prop :=
  (label = .drain ∧ done = .deadline) ∨ (label = .doneDrain ∧ done = .doneRecheck)

section Drain

variable {s : State} {m : Message} {c : Cursor} {w v : Word} {rest : List Word}
  {label : DrainPoint → Label} {done : Label}

theorem blockStep_anyDrainSample (hd : DrainLabels label done) (hl : s.loc = .eng (label .sample))
    (hw : s.pumpWanted = true) :
    blockStep s = .next ((s.regRead .s (s.answer .s)).goto
      (.eng (if statusRxd (s.answer .s) then label .pop else done))) := by
  rcases hd with ⟨rfl, rfl⟩ | ⟨rfl, rfl⟩
  · exact blockStep_drainSample hl hw
  · exact blockStep_doneDrainSample hl hw

theorem blockStep_anyDrainEnd (hd : DrainLabels label done) (hl : s.loc = .eng (label .sample))
    (hw : s.pumpWanted = false) : blockStep s = pumpEnd s done := by
  rcases hd with ⟨rfl, rfl⟩ | ⟨rfl, rfl⟩
  · exact blockStep_drainEnd hl hw
  · exact blockStep_doneDrainEnd hl hw

theorem blockStep_anyDrainPop (hd : DrainLabels label done) (hl : s.loc = .eng (label .pop)) :
    blockStep s = .next ((s.regRead .fifo (s.answer .fifo)).goto
      (.eng (label (.store (trunc8 (s.answer .fifo)))))) := by
  rcases hd with ⟨rfl, rfl⟩ | ⟨rfl, rfl⟩
  · exact blockStep_drainPop hl
  · exact blockStep_doneDrainPop hl

theorem blockStep_anyDrainStore {b : Byte} (hd : DrainLabels label done)
    (hl : s.loc = .eng (label (.store b))) : blockStep s = storeStep s b (label .sample) := by
  rcases hd with ⟨rfl, rfl⟩ | ⟨rfl, rfl⟩
  · exact blockStep_drainStore hl
  · exact blockStep_doneDrainStore hl

theorem drain_end (hd : DrainLabels label done) (hl : s.loc = .eng (label .sample)) (hh : s.host = [])
    (hc : s.cur = some c) (h0 : c.remaining = 0) : step s = .next (s.goto (.eng done)) := by
  rw [step_of_block hh (blockStep_anyDrainEnd hd hl (by rw [pumpWanted_of hc]; simpa using h0)),
    pumpEnd_eq hc]

theorem drain_stop (hd : DrainLabels label done) (hl : s.loc = .eng (label .sample)) (hh : s.host = [])
    (hc : s.cur = some c) (h0 : c.remaining ≠ 0) (ha : s.answer .s = w) (hw : statusRxd w = false) :
    step s = .next ((s.regRead .s w).goto (.eng done)) := by
  rw [step_of_block hh (blockStep_anyDrainSample hd hl (by rw [pumpWanted_of hc]; simpa using h0)), ha,
    hw]
  simp

/-- One byte of a Drain: three steps. -/
theorem drain_iteration (hd : DrainLabels label done) (hl : s.loc = .eng (label .sample))
    (hh : s.host = []) (hm : s.m = some m) (hc : s.cur = some c) (h0 : c.remaining ≠ 0)
    (hp : c.position < m.length) (hv : s.device = w :: v :: rest) (hw : statusRxd w = true) :
    runSteps 3 s = .next { s with
      events := s.events ++ [.read .s w, .read .fifo v, .bufWrite c.position (trunc8 v)],
      device := rest,
      cur := some c.advance,
      mem := s.mem.write (m.buffer.base + c.position) (trunc8 v) } := by
  have e1 : step s = .next ((s.regRead .s w).goto (.eng (label .pop))) := by
    rw [step_of_block hh (blockStep_anyDrainSample hd hl (by rw [pumpWanted_of hc]; simpa using h0)),
      answer_cons hv, hw]
    simp
  rw [runSteps_succ e1, runSteps_succ (step_of_block (by simpa using hh) (blockStep_anyDrainPop hd rfl))]
  have ha : ((s.regRead .s w).goto (.eng (label .pop))).answer .fifo = v :=
    answer_cons (rest := rest) (by simp [hv]) _
  rw [ha]
  unfold runSteps
  rw [step_of_block (by simpa using hh) (blockStep_anyDrainStore hd rfl),
    storeStep_eq (m := m) (c := c) (by simpa using hm) (by simpa using hc) hp]
  simp only [runSteps]
  clear ha e1 hd
  cases s
  simp_all [State.goto, State.regRead, State.bufWrite, bufAddress]

end Drain

end Sys2Proof.Machine
end

