-- ==== Sys2Proof/Tests/Slice0.lean ====
section
/-! SUPPORT. Tests: the well-formedness smoke, one decoded word per constructor written out from the spec's
encoding, one-step tests with values of 95_test_vectors.md, and for every statement with hypotheses a state
that meets them (its clauses one by one). -/

namespace Sys2Proof.Tests

open Sys2Proof.Machine

/-- A next state with a property. -/
def nextAnd (o : Out) (p : State → Bool) : Bool :=
  match o with
  | .next t => p t
  | .fault _ => false
  | .refused _ => false

/-! ### WellFormed -/

theorem test_wf_dlen_max : (Instr.wrDlen 65535).wf = true := by decide
theorem test_wf_dlen_over : (Instr.wrDlen 65536).wf = false := by decide
theorem test_wf_a_max : (Instr.wrA 127).wf = true := by decide
theorem test_wf_a_over : (Instr.wrA 128).wf = false := by decide

/-! ### Decoding: words from 30_encoding.md R101, R105 and 95_test_vectors.md EN-1 to EN-22 -/

theorem test_decode_init :
    decodeCommand 0b00000000000000000000000000000001 { speedHz := 400000 } = some (.init 400000) := by
  decide
theorem test_decode_setSpeed :
    decodeCommand 0b00000000000000000000000000000010 { speedHz := 7 } = some (.setSpeed 7) := by decide
theorem test_decode_probe :
    decodeCommand 0b00000000000000000000000000000011 { chipAddress := 0x50 } = some (.probe 0x50) := by
  decide
theorem test_decode_xfer :
    decodeCommand 0b00000000000000000000000000000100 {} = some (.xfer []) := by decide
theorem test_decode_rdS :
    decodeAccess 0b000100000000000000000000000000010101 = some (.rdS 0x15) := by decide
theorem test_decode_rdFifo :
    decodeAccess 0b010000000000000000000000000001011010 = some (.rdFifo 0x5A) := by decide
theorem test_decode_wrCClear :
    decodeAccess 0b100000000000000000000000000000110000 = some .wrCClear := by decide
theorem test_decode_wrCStartW :
    decodeAccess 0b100000000000000000001000000010000000 = some .wrCStartW := by decide
theorem test_decode_wrCStartR :
    decodeAccess 0b100000000000000000001000000010000001 = some .wrCStartR := by decide
theorem test_decode_wrSClear :
    decodeAccess 0b100100000000000000000000001100000010 = some .wrSClear := by decide
theorem test_decode_wrDlen :
    decodeAccess 0b101000000000000000001111111111111111 = some (.wrDlen 65535) := by decide
theorem test_decode_wrA :
    decodeAccess 0b101100000000000000000000000001111111 = some (.wrA 0x7F) := by decide
theorem test_decode_wrFifo :
    decodeAccess 0b110000000000000000000000000010101010 = some (.wrFifo 0xAA) := by decide
theorem test_decode_wrDivFast :
    decodeAccess 0b110100000000000000000000010111011100 = some .wrDivFast := by decide
theorem test_decode_wrDivStd :
    decodeAccess 0b110100000000000000000001011101110000 = some .wrDivStd := by decide
theorem test_decode_wrClkt :
    decodeAccess 0b111100000000000000000000000000000000 = some .wrClkt := by decide

/-- EN-3, EN-4, EN-5: reserved command words. -/
theorem test_decode_reserved_commands :
    decodeCommand 0x00000000 {} = none ∧ decodeCommand 0x00000005 {} = none ∧
    decodeCommand 0x0000000F {} = none ∧ decodeCommand 0x00000011 {} = none ∧
    decodeCommand 0x80000001 {} = none := by decide

/-- EN-11, EN-13, EN-15, EN-17, EN-19 to EN-22: illegal descriptors. -/
theorem test_decode_illegal_descriptors :
    decodeAccess 0xA00010000 = none ∧ decodeAccess 0xB00000080 = none ∧
    decodeAccess 0xC000001AA = none ∧ decodeAccess 0xD00001000 = none ∧
    decodeAccess 0xF00000001 = none ∧ decodeAccess 0x600000000 = none ∧
    decodeAccess 0xE00000000 = none ∧ decodeAccess 0x000000000 = none ∧
    decodeAccess 0x800000000 = none := by decide

/-- An opcode-table word that step fetches and runs as the first instruction after reset. -/
theorem test_fetch_word :
    nextAnd (step (State.reset.withFetchWord 36 0xB0000007F))
      (fun t => decide (t.events = [.write .a 0x7F])) = true := by decide

/-! ### Status bits, dividers, bytes: EN-23 to EN-27 -/

theorem test_status_flags :
    statusTa 0x15 = true ∧ statusTxw 0x15 = true ∧ statusTxd 0x15 = true ∧ statusDone 0x15 = false ∧
    statusRxr 0x15 = false ∧ statusRxd 0x15 = false ∧ statusErr 0x15 = false ∧
    statusClkt 0x15 = false := by decide
theorem test_dividers :
    divider 400000 = 1500 ∧ divider 100000 = 6000 ∧ divider 0 = 6000 ∧ divider 1099511627776 = 6000 ∧
    nominal 400000 = 400000 ∧ nominal 12345 = 100000 := by decide
theorem test_trunc : trunc8 0x1234565A = 0x5A := by decide

/-! ### States for the tests -/

/-- A message of two bytes at address 0x50. -/
def message (d : Direction) : Message :=
  { chipAddress := 0x50, direction := d, buffer := { base := 16, size := 2 }, length := 2 }

/-- A handle that INIT has initialized at the standard speed. -/
def initialized : Handle :=
  { base := 0, lastDivider := some 6000, lastSpeed := some 100000, initialized := true }

/-- An initialized block between commands, its buffer bytes AA BB. -/
def ready : State := { State.reset with handle := initialized, mem := [(16, 0xAA), (17, 0xBB)] }

/-- The engine at a label, on a message of the Sequencer, one byte moved of two. -/
def engine (l : Label) (d : Direction) : State :=
  { ready with seq := [message d], m := some (message d), caller := some .sequencer, loc := .eng l,
               cur := some { remaining := 1, position := 1 }, deadline := some 100,
               phase := .activePoll, events := [.read .s 0x35] }

/-- The engine at VALIDATE or in its entry. -/
def entering (l : Label) (a : Nat) (c : Caller) : State :=
  { ready with m := some (probeMessage a), caller := some c, loc := .eng l, ticks := [0] }

/-- The engine at an exit write, with a result. -/
def exiting (p : ExitPoint) (res : Result) (c : Caller) : State :=
  { engine (.exit p) .write with r := some res, phase := .complete, caller := some c }

theorem ready_ready : Ready ready :=
  ⟨⟨rfl, ⟨⟨rfl, rfl, rfl⟩, rfl, rfl⟩, ⟨rfl, rfl⟩, rfl⟩, rfl, rfl⟩

theorem reset_ready : Ready State.reset :=
  ⟨⟨rfl, ⟨⟨rfl, rfl, rfl⟩, rfl, rfl⟩, ⟨rfl, rfl⟩, rfl⟩, rfl, rfl⟩

theorem reset_inv : Inv State.reset where
  mem := rfl
  loc := ⟨⟨⟨rfl, rfl, rfl⟩, rfl, rfl⟩, ⟨rfl, rfl⟩, rfl⟩
  handle := ⟨.inl ⟨rfl, rfl⟩, by decide⟩
  trace := by intro e he; cases he
  seq := by intro m hm; cases hm
  align := fun h => absurd rfl h

theorem engine_polling (l : Label) (d : Direction) :
    Polling (engine l d) (message d) { remaining := 1, position := 1 } :=
  ⟨⟨rfl, by cases d <;> rfl, rfl, .inl ⟨rfl, rfl⟩⟩, by cases d <;> rfl, ⟨rfl, rfl⟩, rfl, rfl, rfl⟩

/-- The engine states meet the invariant, at the labels whose own condition holds. -/
theorem engine_inv (l : Label) (d : Direction)
    (h : PollLabelOk (message d) { remaining := 1, position := 1 } l) : Inv (engine l d) where
  mem := by
    show Memory.wf [(16, 0xAA), (17, 0xBB)] = true
    decide
  loc := by
    show EngineLabelOk (engine l d) l
    cases l <;> first | exact ⟨_, _, engine_polling _ d, h⟩ | exact absurd h id
  handle := ⟨.inr (.inr ⟨rfl, rfl⟩), fun _ => rfl⟩
  trace := by
    intro e he
    rw [List.mem_singleton.1 he]
    decide
  seq := by
    intro m hm
    rw [List.mem_singleton.1 hm]
    cases d <;> rfl
  align := fun _ => rfl

/-! ### One-step tests -/

/-- BC-1, BC-2: INIT starts at the write of CLKT. -/
theorem test_init_starts :
    nextAnd (exec (.init 400000) State.reset)
      (fun t => decide (t.loc = .bc (.initClkt 400000) ∧ t.events = [])) = true := by decide
theorem test_init_div :
    nextAnd (step { State.reset with loc := .bc (.initDiv 400000) })
      (fun t => decide (t.events = [.write .div 0x5DC] ∧ t.returns = [.okUnit] ∧
        t.handle.initialized = true ∧ t.handle.lastSpeed = some 400000)) = true := by decide

/-- BC-4, BC-6: SETSPEED leaves `initialized`. -/
theorem test_setSpeed_starts :
    nextAnd (exec (.setSpeed 7) State.reset)
      (fun t => decide (t.loc = .bc (.setSpeedDiv 7))) = true := by decide
theorem test_setSpeed_div :
    nextAnd (step { State.reset with loc := .bc (.setSpeedDiv 7) })
      (fun t => decide (t.events = [.write .div 0x1770] ∧ t.handle.initialized = false)) = true := by
  decide

/-- BC-11: PROBE on a fresh handle is refused. -/
theorem test_probe_refused :
    nextAnd (exec (.probe 0x50) State.reset)
      (fun t => decide (t.refused = true ∧ t.refusals = [.probeBeforeInit] ∧ t.loc = .idle)) = true := by
  decide
theorem test_probe_starts :
    nextAnd (exec (.probe 0x50) ready)
      (fun t => decide (t.loc = .eng .validate ∧ t.m = some (probeMessage 0x50))) = true := by decide

/-- SQ-6, SQ-7: XFER refusals. -/
theorem test_xfer_refused :
    nextAnd (exec (.xfer [message .write]) State.reset)
      (fun t => decide (t.refusals = [.transferBeforeInit])) = true := by decide
theorem test_xfer_ill_formed :
    nextAnd (exec (.xfer [message .write, { message .write with length := 3 }]) ready)
      (fun t => decide (t.refusals = [.illFormedMessage] ∧ t.seq = [])) = true := by decide

/-- TE-10 and its like: one access each. -/
theorem test_rdS :
    nextAnd (step { engine .pollRead .write with device := [0x15] })
      (fun t => decide (t.events = [.read .s 0x35, .read .s 0x15] ∧ t.device = [])) = true := by decide
theorem test_rdFifo :
    nextAnd (step { engine (.drain .pop) .read with device := [0x1234565A] })
      (fun t => decide (t.loc = .eng (.drain (.store 0x5A)))) = true := by decide
theorem test_wrCClear :
    nextAnd (step (exiting .clearControl .timeout .sequencer))
      (fun t => decide (t.port.c = 0x30 ∧ t.loc = .eng (.exit .clearStatus))) = true := by decide
theorem test_wrCStartW :
    nextAnd (step (engine (.entry .start) .write)) (fun t => decide (t.port.c = 0x8080)) = true := by
  decide
theorem test_wrCStartR :
    nextAnd (step (engine (.entry .start) .read)) (fun t => decide (t.port.c = 0x8081)) = true := by
  decide
theorem test_wrSClear :
    nextAnd (step (exiting .clearStatus .timeout .sequencer))
      (fun t => decide (t.port.s = 0x302 ∧ t.returns = [.err .timeout] ∧ t.loc = .idle)) = true := by
  decide
theorem test_wrDlen :
    nextAnd (step (engine (.entry .dataLength) .write)) (fun t => decide (t.port.dlen = 2)) = true := by
  decide
theorem test_wrA :
    nextAnd (step (engine (.entry .address) .write)) (fun t => decide (t.port.a = 0x50)) = true := by
  decide
theorem test_wrFifo :
    nextAnd (step (engine (.fill (.push 0xBB)) .write))
      (fun t => decide (t.port.fifo = 0xBB ∧ t.cur = some { remaining := 0, position := 2 })) = true := by
  decide
theorem test_wrDivFast :
    nextAnd (exec .wrDivFast ready) (fun t => decide (t.port.div = 0x5DC)) = true := by decide
theorem test_wrDivStd :
    nextAnd (step { ready with loc := .bc .probeDiv, r := some .busError })
      (fun t => decide (t.port.div = 0x1770 ∧ t.returns = [.okBool false])) = true := by decide
theorem test_wrClkt :
    nextAnd (step { ready with loc := .bc .probeClkt, r := some .ok })
      (fun t => decide (t.port.clkt = 0 ∧ t.loc = .bc .probeDiv)) = true := by decide

/-! ### What the statements assume can be met

One theorem for each statement that has hypotheses, a clause at a time. -/

theorem witness_ReservedCommandWordIsRefused :
    ((0x00000000 : Word).extractLsb' 0 4).toNat = 0 ∧ 5 ≤ ((0x00000005 : Word).extractLsb' 0 4).toNat ∧
    5 ≤ ((0x0000000F : Word).extractLsb' 0 4).toNat ∧ (0x00000011 : Word).extractLsb' 4 28 ≠ 0 ∧
    ({ ready with host := [.issue 0x11 {}] } : State).host = .issue 0x11 {} :: [] := by decide

theorem witness_IllegalDescriptorsDecodeToNothing :
    (0x600000000 : Descriptor).extractLsb' 32 3 = 6 ∧ (Reg.clkt ≠ .s ∧ Reg.clkt ≠ .fifo) ∧
    ((0x31 : Word) ≠ 0x30 ∧ (0x31 : Word) ≠ 0x8080 ∧ (0x31 : Word) ≠ 0x8081) ∧
    (0x303 : Word) ≠ 0x302 ∧ 0x10000 ≤ (0x10000 : Word).toNat ∧ 0x80 ≤ (0x80 : Word).toNat ∧
    0x100 ≤ (0x100 : Word).toNat ∧ ((1501 : Word) ≠ 1500 ∧ (1501 : Word) ≠ 6000) ∧ (1 : Word) ≠ 0 := by
  decide

theorem witness_AccessRowsDoNotOverlap :
    (accessRows[11]?.any fun row => row.fits 0xF00000000) = true := by decide

theorem witness_EncodeThenDecodeIsIdentity :
    (Instr.wrDlen 0xFFFF).wf = true ∧ (Instr.wrA 0x7F).wf = true ∧ (Instr.wrFifo 0xFF).wf = true := by
  decide

theorem witness_DecodeThenEncodeIsIdentity :
    decodeAccess 0xB0000007F = some (.wrA 0x7F) ∧
    decodeCommand 4 { messages := [message .read] } = some (.xfer [message .read]) := by decide

theorem witness_StepRunsTheIssuedCommand :
    ({ ready with host := [.issue 3 { chipAddress := 0x50 }] } : State).host =
      .issue 3 { chipAddress := 0x50 } :: [] ∧
    decodeCommand 3 { chipAddress := 0x50 } = some (.probe 0x50) := by decide

theorem witness_StepRunsTheEmittedAccess :
    ((engine .pollRead .write).host = [] ∧
      accessAt { engine .pollRead .write with device := [0x15] } = some 0x100000015 ∧
      decodeAccess 0x100000015 = some (.rdS 0x15) ∧
      nextAnd (exec (.rdS 0x15) (engine .pollRead .write)) (fun _ => true) = true) ∧
    ((engine .deadline .write).host = [] ∧ accessAt (engine .deadline .write) = none) ∧
    ({ ready with host := [.pass] } : State).host = .pass :: [] := by decide

theorem witness_ConfigurationWritesComplete : 0xFFFF ≤ 0xFFFF ∧ 0x7F ≤ 0x7F := by decide

theorem witness_EveryAccessIsOneEventAndNoBlockState :
    (Instr.wrA 0x7F).wf = true ∧ encode (.wrA 0x7F) = .access 0xB0000007F := by decide

theorem witness_CommandsStartWhenAdmitted :
    Ready ready ∧ ready.handle.initialized = true ∧
    ∀ m ∈ [message .write], m.length = m.buffer.size ∧ m.length ≤ 0xFFFF := ⟨ready_ready, by decide⟩

/-- For InitWritesClktThenDivAndReturns and SetSpeedWritesDivAndReturns. -/
theorem witness_InitWritesClktThenDivAndReturns : Ready State.reset := reset_ready

theorem witness_SetSpeedWritesDivAndReturns : Ready ready := ready_ready

/-- The answers of one probe: the clock stands still and the first status value is w. -/
def probing (w : Word) : State := { ready with ticks := [0], device := [w] }

/-- Each of the five ways a first status value decides, and a clock and a status answer to it. -/
theorem witness_ProbeDecidedByItsFirstStatusRead :
    Ready (probing 0x2) ∧ (probing 0x2).handle.initialized = true ∧ 0x7F ≤ 0x7F ∧
    ({ probing 0x2 with events := (probing 0x2).events ++ entryEvents (probeMessage 0x7F) } :
      State).nowAnswer = 0 ∧
    ({ probing 0x2 with events := (probing 0x2).events ++ entryEvents (probeMessage 0x7F) ++ [.now 0] } :
      State).answer .s = 0x2 ∧
    (0x200 : Word).getLsbD 9 = true ∧
    ((0x100 : Word).getLsbD 8 = true ∧ (0x100 : Word).getLsbD 0 = false) ∧
    (0x2 : Word).getLsbD 1 = true ∧ (0x5 : Word).getLsbD 2 = true ∧ (0x9 : Word).getLsbD 3 = true :=
  ⟨⟨⟨rfl, ⟨⟨rfl, rfl, rfl⟩, rfl, rfl⟩, ⟨rfl, rfl⟩, rfl⟩, rfl, rfl⟩, by decide⟩

theorem witness_ProbeOfInvalidAddressOnlyReinits :
    Ready ready ∧ ready.handle.initialized = true ∧ 0x7F < 0x80 := ⟨ready_ready, by decide⟩

theorem witness_ProbeReinitsOnEveryResult :
    ∀ res ∈ [Result.ok, Result.busError, Result.timeout],
      ({ ready with loc := .bc .probeClkt, r := some res } : State).loc = .bc .probeClkt ∧
      ({ ready with loc := .bc .probeClkt, r := some res } : State).host = [] ∧
      ({ ready with loc := .bc .probeClkt, r := some res } : State).r = some res := by decide

theorem witness_XferRunsMessagesInListOrder_starts :
    Ready ready ∧ ready.handle.initialized = true ∧
    ∀ m ∈ [message .write, { message .read with buffer := { base := 0, size := 0xFFFF },
                                                length := 0xFFFF }],
      m.length = m.buffer.size ∧ m.length ≤ 0xFFFF := ⟨ready_ready, by decide⟩

theorem witness_XferRunsMessagesInListOrder_runs :
    ({ ready with loc := .seq, seq := [message .write] } : State).host = [] ∧
    ({ ready with loc := .seq, seq := [message .write] } : State).idx = 0 ∧
    ({ ready with loc := .seq, seq := [message .write] } : State).seq[0]? = some (message .write) ∧
    ({ ready with loc := .seq, seq := [message .write], idx := 1 } : State).idx =
      [message .write].length := by decide

theorem witness_EmptyXferReturnsOk : Ready ready ∧ ready.handle.initialized = true :=
  ⟨ready_ready, rfl⟩

/-- The state before a Write of two bytes under a device as the statement says. -/
def writing : State :=
  { ready with device := [0x15] ++ ([0x10, 0x10] ++ [0x2]), ticks := [0, 100] }

theorem witness_WriteMessageSendsItsBuffer :
    Ready writing ∧ writing.handle.initialized = true ∧ (message .write).direction = .write ∧
    (message .write).chipAddress ≤ 0x7F ∧ (message .write).length = (message .write).buffer.size ∧
    (message .write).length ≤ 0xFFFF ∧ 0 < (message .write).length ∧
    writing.device = 0x15 :: ([0x10, 0x10] ++ 0x2 :: []) ∧ writing.ticks = 0 :: 100 :: [] ∧
    (0x15 : Word).getLsbD 9 = false ∧ (0x15 : Word).getLsbD 8 = false ∧
    (0x15 : Word).getLsbD 1 = false ∧ (0x15 : Word).getLsbD 2 = true ∧
    [(0x10 : Word), 0x10].length = (message .write).length ∧
    (∀ t ∈ [(0x10 : Word), 0x10], t.getLsbD 4 = true) ∧
    (0x2 : Word).getLsbD 9 = false ∧ (0x2 : Word).getLsbD 8 = false ∧ (0x2 : Word).getLsbD 1 = true :=
  ⟨⟨⟨rfl, ⟨⟨rfl, rfl, rfl⟩, rfl, rfl⟩, ⟨rfl, rfl⟩, rfl⟩, rfl, rfl⟩, by and_intros <;> first | rfl | (intro x hx; fin_cases hx <;> rfl) | decide⟩

/-- The state before a Read of two bytes under a device as the statement says. -/
def reading : State :=
  { ready with device := [0x29] ++ (drainAnswers [(0x20, 0x11), (0x20, 0x22)] ++ [0x2, 0x2]),
               ticks := [0, 100] }

theorem witness_ReadMessageFillsItsBuffer :
    Ready reading ∧ reading.handle.initialized = true ∧ reading.mem.wf = true ∧
    (message .read).direction = .read ∧ (message .read).chipAddress ≤ 0x7F ∧
    (message .read).length = (message .read).buffer.size ∧ (message .read).length ≤ 0xFFFF ∧
    0 < (message .read).length ∧
    reading.device = 0x29 :: (drainAnswers [(0x20, 0x11), (0x20, 0x22)] ++ 0x2 :: 0x2 :: []) ∧
    reading.ticks = 0 :: 100 :: [] ∧
    (0x29 : Word).getLsbD 9 = false ∧ (0x29 : Word).getLsbD 8 = false ∧
    (0x29 : Word).getLsbD 1 = false ∧ (0x29 : Word).getLsbD 2 = false ∧ (0x29 : Word).getLsbD 3 = true ∧
    [((0x20 : Word), (0x11 : Word)), (0x20, 0x22)].length = (message .read).length ∧
    (∀ p ∈ [((0x20 : Word), (0x11 : Word)), (0x20, 0x22)], p.1.getLsbD 5 = true) ∧
    (0x2 : Word).getLsbD 9 = false ∧ (0x2 : Word).getLsbD 8 = false ∧ (0x2 : Word).getLsbD 1 = true ∧
    (0x2 : Word).getLsbD 5 = false :=
  ⟨⟨⟨rfl, ⟨⟨rfl, rfl, rfl⟩, rfl, rfl⟩, ⟨rfl, rfl⟩, rfl⟩, rfl, rfl⟩, by and_intros <;> first | rfl | (intro x hx; fin_cases hx <;> rfl) | decide⟩

theorem witness_CommandsRefusedWhileOneRuns :
    (engine .pollRead .write).loc ≠ .idle ∧
    encode (.init 400000) = .command 1 { speedHz := 400000 } := by decide

theorem witness_ProbeAndXferRefusedBeforeInit :
    State.reset.loc = .idle ∧ State.reset.handle.base % 4 = 0 ∧
    State.reset.handle.initialized = false := by decide

theorem witness_IllFormedMessageRefusesXfer :
    ready.loc = .idle ∧ ready.handle.base % 4 = 0 ∧ ready.handle.initialized = true ∧
    { message .write with length := 1 } ∈ [message .write, { message .write with length := 1 }] ∧
    ({ message .write with length := 1 } : Message).length ≠ (message .write).buffer.size ∧
    0xFFFF < ({ message .write with length := 0x10000 } : Message).length := by decide

theorem witness_MisalignedBaseRefusesCommands :
    ({ ready with handle := { initialized with base := 2 } } : State).loc = .idle ∧
    ({ ready with handle := { initialized with base := 2 } } : State).handle.base % 4 ≠ 0 ∧
    encode (.setSpeed 0) = .command 2 { speedHz := 0 } := by decide

theorem witness_InvalidAddressEndsBeforeAnyAccess :
    (entering .validate 0x80 .probe).loc = .eng .validate ∧
    (entering .validate 0x80 .probe).host = [] ∧
    (entering .validate 0x80 .probe).m = some (probeMessage 0x80) ∧
    0x7F < (probeMessage 0x80).chipAddress ∧ EngineResting (entering .validate 0x80 .probe) ∧
    (entering .validate 0x80 .probe).caller = some .probe ∧
    (entering .validate 0x80 .sequencer).caller = some .sequencer :=
  ⟨rfl, rfl, rfl, by decide, ⟨rfl, rfl, rfl⟩, rfl, rfl⟩

theorem witness_EntryWritesInOrder :
    (entering .validate 0x7F .probe).loc = .eng .validate ∧
    (entering .validate 0x7F .probe).host = [] ∧
    (entering .validate 0x7F .probe).m = some (probeMessage 0x7F) ∧
    (probeMessage 0x7F).chipAddress ≤ 0x7F ∧
    (probeMessage 0x7F).length = (probeMessage 0x7F).buffer.size ∧
    (probeMessage 0x7F).length ≤ 0xFFFF ∧
    ({ entering .validate 0x7F .probe with
        events := (entering .validate 0x7F .probe).events ++ entryEvents (probeMessage 0x7F) } :
      State).nowAnswer = 0 := by decide

theorem witness_ExitWritesThenReturnsToTheCaller :
    ∀ c ∈ [Caller.sequencer, Caller.probe], ∀ res ∈ [Result.ok, Result.timeout],
      (exiting .clearControl res c).loc = .eng (.exit .clearControl) ∧
      (exiting .clearControl res c).host = [] ∧ (exiting .clearControl res c).r = some res ∧
      (exiting .clearControl res c).caller = some c := by decide

theorem witness_ClassifierFollowsThePriorityOrder :
    (engine (.classify 0x302) .read).loc = .eng (.classify 0x302) ∧
    (engine (.classify 0x302) .read).host = [] ∧
    (engine (.classify 0x302) .read).m = some (message .read) ∧
    (engine (.classify 0x302) .read).cur = some { remaining := 1, position := 1 } := by decide

theorem witness_RecheckDecidesTheRead :
    ({ engine .doneRecheck .read with device := [0x20] } : State).loc = .eng .doneRecheck ∧
    ({ engine .doneRecheck .read with device := [0x20] } : State).host = [] ∧
    ({ engine .doneRecheck .read with device := [0x20] } : State).cur =
      some { remaining := 1, position := 1 } ∧
    ({ engine .doneRecheck .read with device := [0x20] } : State).answer .s = 0x20 := by decide

/-- TE-11, TE-12: the deadline itself still polls, one millisecond more does not. -/
theorem witness_DeadlineIsStrict :
    (engine .deadline .write).loc = .eng .deadline ∧ (engine .deadline .write).host = [] ∧
    (engine .deadline .write).deadline = some 100 ∧
    ({ engine .deadline .write with ticks := [101] } : State).nowAnswer = 101 ∧ 100 < 101 ∧
    ({ engine .deadline .write with ticks := [100] } : State).nowAnswer = 100 ∧ 100 ≤ 100 := by decide

/-- The engine polling, the device about to answer w and the clock to stand still. -/
def polling (w : Word) : State := { engine .pollRead .write with device := [w], ticks := [0] }

theorem witness_IdleIterationChangesNoBlockState :
    ∀ w ∈ [(0x000 : Word), 0x101, 0xFFFFFC01],
      (polling w).loc = .eng .pollRead ∧ (polling w).host = [] ∧
      (polling w).m = some (message .write) ∧
      (polling w).cur = some { remaining := 1, position := 1 } ∧ (polling w).deadline = some 100 ∧
      (polling w).answer .s = w ∧ w.getLsbD 9 = false ∧ (w.getLsbD 8 = false ∨ w.getLsbD 0 = true) ∧
      w.getLsbD 1 = false ∧ w.getLsbD 2 = false ∧ w.getLsbD 3 = false ∧
      ({ polling w with events := (polling w).events ++ [.read .s w] } : State).nowAnswer = 0 ∧
      0 ≤ 100 := by
  intro w hw
  simp only [List.mem_cons, List.not_mem_nil, or_false] at hw
  rcases hw with h | h | h <;> subst h <;> and_intros <;> first | rfl | decide

theorem witness_StoppedClockPollsOn :
    (polling 0).loc = .eng .pollRead ∧ (polling 0).host = [] ∧ (polling 0).m = some (message .write) ∧
    (polling 0).cur = some { remaining := 1, position := 1 } ∧ (polling 0).deadline = some 100 ∧
    (polling 0).clock ≤ 100 ∧ (polling 0).device = List.replicate 1 0 ++ [] ∧
    (polling 0).ticks = List.replicate 1 0 ++ [] := by decide

/-- A clock that is one millisecond past the deadline's last admitted value after one advance. -/
def nearlyExpired : State := { engine .pollRead .write with clock := 100, ticks := [1] }

theorem witness_EngineEndsWhenTheClockAdvances :
    Inv nearlyExpired ∧ nearlyExpired.loc = .eng .pollRead ∧ nearlyExpired.host = [] ∧
    nearlyExpired.deadline = some 100 ∧ 100 + 1 - nearlyExpired.clock ≤ nearlyExpired.ticks.length ∧
    (∀ a ∈ nearlyExpired.ticks, 1 ≤ a) := by
  have h := engine_inv .pollRead .write trivial
  exact ⟨⟨h.mem, h.loc, h.handle, h.trace, h.seq, h.align⟩, by decide⟩

theorem witness_FillMovesBytesInOrder :
    (engine (.fill .sample) .write).loc = .eng (.fill .sample) ∧
    (engine (.fill .sample) .write).host = [] ∧
    (engine (.fill .sample) .write).m = some (message .write) ∧
    (engine (.fill .sample) .write).cur = some { remaining := 1, position := 1 } ∧
    1 + 1 = (message .write).length ∧
    (∀ t ∈ ([] : List Word), t.getLsbD 4 = true) ∧ ([] : List Word).length < 1 ∧
    (0x5 : Word).getLsbD 4 = false ∧
    ({ engine (.fill .sample) .write with device := [0x5] } : State).device = [] ++ 0x5 :: [] ∧
    (∀ t ∈ [(0x10 : Word)], t.getLsbD 4 = true) ∧ [(0x10 : Word)].length = 1 ∧
    ({ engine (.fill .sample) .write with device := [0x10] } : State).device = [0x10] ++ [] := by
  and_intros <;> first | rfl | (intro x hx; fin_cases hx <;> rfl) | decide

/-- The Drain of the poll loop. -/
theorem witness_DrainStoresBytesInOrder :
    (engine (.drain .sample) .read).loc = .eng (.drain .sample) ∧
    (engine (.drain .sample) .read).host = [] ∧
    (engine (.drain .sample) .read).m = some (message .read) ∧
    (engine (.drain .sample) .read).cur = some { remaining := 1, position := 1 } ∧
    1 + 1 = (message .read).length ∧ (engine (.drain .sample) .read).mem.wf = true ∧
    ([] : List (Word × Word)).length < 1 ∧ (0x9 : Word).getLsbD 5 = false ∧
    ({ engine (.drain .sample) .read with device := [0x9] } : State).device =
      drainAnswers [] ++ 0x9 :: [] ∧
    (∀ p ∈ [((0x20 : Word), (0x1234565A : Word))], p.1.getLsbD 5 = true) ∧
    ({ engine (.drain .sample) .read with device := [0x20, 0x1234565A] } : State).device =
      drainAnswers [(0x20, 0x1234565A)] ++ [] := by
  and_intros <;> first | rfl | (intro x hx; fin_cases hx; rfl) | decide

/-- The final Drain of the DONE branch; the pairs and the answers are those above (TE-16b). -/
theorem witness_DrainStoresBytesInOrder_final :
    (engine (.doneDrain .sample) .read).loc = .eng (.doneDrain .sample) ∧
    (engine (.doneDrain .sample) .read).host = [] ∧
    (engine (.doneDrain .sample) .read).m = some (message .read) ∧
    (engine (.doneDrain .sample) .read).cur = some { remaining := 1, position := 1 } ∧
    1 + 1 = (message .read).length ∧ (engine (.doneDrain .sample) .read).mem.wf = true ∧
    ({ engine (.doneDrain .sample) .read with device := [0x9] } : State).device =
      drainAnswers [] ++ 0x9 :: [] ∧
    ({ engine (.doneDrain .sample) .read with device := [0x20, 0x22] } : State).device =
      drainAnswers [(0x20, 0x22)] ++ [] := by
  and_intros <;> rfl

theorem witness_EveryPumpCallEnds :
    (Inv (engine (.fill .sample) .write) ∧ Inv (engine (.drain .sample) .read) ∧
      Inv (engine (.doneDrain .sample) .read)) ∧
    (engine (.fill .sample) .write).host = [] ∧
    (engine (.fill .sample) .write).cur = some { remaining := 1, position := 1 } :=
  ⟨⟨engine_inv _ _ trivial, engine_inv _ _ trivial, engine_inv _ _ rfl⟩, rfl, rfl⟩

/-- The two steps that move a byte: FIFO write, BufWrite; and one that makes another event, a status read. -/
theorem witness_CursorKeepsItsSum :
    Inv (engine (.fill (.push 0xBB)) .write) ∧ Inv (engine (.drain (.store 0x5A)) .read) ∧
    nextAnd (step (engine (.fill (.push 0xBB)) .write)) (fun t => decide (
      t.cur = some { remaining := 0, position := 2 } ∧
      t.events = [.read .s 0x35] ++ [.write .fifo 0xBB])) = true ∧
    nextAnd (step (engine (.drain (.store 0x5A)) .read)) (fun t => decide (
      t.cur = some { remaining := 0, position := 2 } ∧
      t.events = [.read .s 0x35] ++ [.bufWrite 1 0x5A])) = true :=
  ⟨engine_inv _ _ Nat.one_ne_zero, engine_inv _ _ Nat.one_ne_zero, by decide⟩

theorem witness_CursorKeepsItsSum_otherEvent :
    ∃ s t, Inv s ∧ step s = .next t ∧ s.cur = some { remaining := 1, position := 1 } ∧
      t.cur = some { remaining := 1, position := 1 } ∧
      (∀ b, t.events ≠ s.events ++ [.write .fifo b]) ∧
      (∀ i b, t.events ≠ s.events ++ [.bufWrite i b]) := by
  have h := engine_inv .pollRead .write trivial
  refine ⟨{ engine .pollRead .write with device := [0x15] }, _,
    ⟨h.mem, h.loc, h.handle, h.trace, h.seq, h.align⟩, rfl, rfl, rfl, ?_, ?_⟩
  · intro b hb; cases hb
  · intro i b hb; cases hb

theorem witness_EveryStepKeepsTheInvariant :
    Inv (engine (.classify 0x2) .read) ∧
    nextAnd (step (engine (.classify 0x2) .read))
      (fun t => decide (t.loc = .eng (.doneDrain .sample))) = true :=
  ⟨engine_inv _ _ trivial, by decide⟩

theorem witness_GoodStatesNeverStop : Inv State.reset ∧ Inv (engine .deadline .write) :=
  ⟨reset_inv, engine_inv _ _ trivial⟩

theorem witness_ControllerIsLeftDisabled :
    CleanOk (exiting .clearControl .timeout .sequencer) ∧
    nextAnd (step (exiting .clearControl .timeout .sequencer))
      (fun t => decide (betweenStartAndExit t.loc = false)) = true := by
  refine ⟨?_, by decide⟩
  intro h
  cases h

theorem witness_FifoAccessFollowsFreshStatus :
    (SampleOk (engine (.fill (.push 0xBB)) .write) ∧ Inv (engine (.fill (.push 0xBB)) .write) ∧
      nextAnd (step (engine (.fill (.push 0xBB)) .write)) (fun t => decide (
        t.events = [.read .s 0x35] ++ [.write .fifo 0xBB])) = true) ∧
    (SampleOk { engine (.drain .pop) .read with device := [0x5A] } ∧
      Inv { engine (.drain .pop) .read with device := [0x5A] } ∧
      nextAnd (step { engine (.drain .pop) .read with device := [0x5A] }) (fun t => decide (
        t.events = [.read .s 0x35] ++ [.read .fifo 0x5A])) = true) := by
  have h := engine_inv (.drain .pop) .read Nat.one_ne_zero
  refine ⟨⟨?_, engine_inv _ _ Nat.one_ne_zero, by decide⟩, ?_,
    ⟨h.mem, h.loc, h.handle, h.trace, h.seq, h.align⟩, by decide⟩
  · exact ⟨⟨0x35, by decide, by decide⟩, _, rfl, by decide⟩
  · exact ⟨⟨0x35, by decide, by decide⟩, _, rfl, by decide⟩

/-- For StepMakesAtMostOneEvent and BaseNeverChanges: a step that makes an event. -/
theorem witness_StepMakesAtMostOneEvent :
    nextAnd (step (engine (.entry .start) .read)) (fun t => decide (
      t.events = [.read .s 0x35, .write .c 0x8081])) = true := by decide

theorem witness_BaseNeverChanges :
    nextAnd (step { ready with loc := .bc (.setSpeedDiv 0) }) (fun t => decide (
      t.handle.base = 0)) = true := by decide

theorem witness_ClockNeverGoesBack :
    nextAnd (step { engine .deadline .write with ticks := [7] }) (fun t => decide (
      t.events = [.read .s 0x35] ++ [.now 7] ∧ t.clock = 7)) = true := by decide

theorem witness_RefusedIsNeverCleared :
    nextAnd (step { ready with refused := true, host := [.issue 1 {}] }) (fun t => decide (
      t.refused = true)) = true := by decide

theorem witness_OnlyDividerWritesRecordASpeed :
    Inv { State.reset with loc := .bc (.initDiv 400000) } ∧
    nextAnd (step { State.reset with loc := .bc (.initDiv 400000) }) (fun t => decide (
      t.handle.lastDivider ≠ State.reset.handle.lastDivider ∧ t.handle.initialized = true)) = true :=
  ⟨⟨rfl, ⟨⟨⟨rfl, rfl, rfl⟩, rfl, rfl⟩, ⟨rfl, rfl⟩, rfl⟩, reset_inv.handle, reset_inv.trace,
    reset_inv.seq, fun _ => rfl⟩, by decide⟩

theorem witness_PhaseKeepsItsCycle :
    Inv (engine (.classify 0x200) .write) ∧
    nextAnd (step (engine (.classify 0x200) .write)) (fun t => decide (t.phase = .complete)) = true :=
  ⟨engine_inv _ _ trivial, by decide⟩

/-- The host's store and the block's. -/
theorem witness_MemoryChangesOnlyAtTheStoredByte :
    nextAnd (step { ready with host := [.store 3 0x11] }) (fun t => decide (
      t.mem = [(3, 0x11), (16, 0xAA), (17, 0xBB)])) = true ∧
    nextAnd (step (engine (.drain (.store 0x5A)) .read)) (fun t => decide (
      t.mem = [(16, 0xAA), (17, 0x5A)])) = true := by decide

theorem witness_LegalTraceHoldsOnlyTheTwelveKinds :
    TraceOk { ready with events := [.read .s 0x15, .write .c 0x30, .write .s 0x302, .write .dlen 0xFFFF,
      .write .a 0x7F, .write .fifo 0xFF, .write .div 6000, .write .clkt 0] } := by
  show ∀ e ∈ _, legalEvent e = true
  decide

theorem witness_StepNeverWaitsForTheDevice :
    nextAnd (step { engine .pollRead .write with device := [0x2] }) (fun _ => true) = true := by decide

/-- At a label other than the load; at the load with the host's script over, its message and its cursor; and
at the load while the host issues a command. -/
theorem witness_BufferContentsSteerNothing :
    (nextAnd (step { engine .doneRecheck .read with device := [0] }) (fun _ => true) = true ∧
      (engine .doneRecheck .read).loc ≠ .eng (.fill .load)) ∧
    ((engine (.fill .load) .write).m = some (message .write) ∧
      (engine (.fill .load) .write).cur = some { remaining := 1, position := 1 } ∧
      (engine (.fill .load) .write).host = [] ∧
      nextAnd (step (engine (.fill .load) .write)) (fun t => decide (
        t.loc = .eng (.fill (.push 0xBB)) ∧
        t.events = [.read .s 0x35] ++ [.bufRead 1 0xBB])) = true ∧
      nextAnd (step { engine (.fill .load) .write with mem := [(17, 0x11)] }) (fun t => decide (
        t.loc = .eng (.fill (.push 0x11)) ∧
        t.events = [.read .s 0x35] ++ [.bufRead 1 0x11])) = true) ∧
    nextAnd (step { engine (.fill .load) .write with host := [.issue 1 {}] }) (fun t => decide (
      t.loc = .eng (.fill .load) ∧ t.refusals = [.overlappingCommand])) = true := by
  decide

theorem witness_OtherStatusBitsDecideNothing :
    ∀ i, i = 0 ∨ i = 1 ∨ i = 2 ∨ i = 3 ∨ i = 8 ∨ i = 9 →
      (0x0 : Word).getLsbD i = (0xFFFFFCC0 : Word).getLsbD i := by
  rintro i (h | h | h | h | h | h) <;> subst h <;> decide

theorem witness_ResultCodes : resultCode .timeout = resultCode .timeout := by decide

theorem witness_IdleBlockWaits : State.reset.loc = .idle ∧ State.reset.host = [] := by decide

end Sys2Proof.Tests
end

section
/-! PROOFS of the family 10_state.md: the fresh handle (R42) and the sticky mark `refused` (R43). -/

namespace Sys2Proof.Machine

/-! ### Reset -/

/-- Settles O1: every field of the reset state is given by its definition. -/
theorem resetIsFreshHandle : Obligations.ResetIsFreshHandle :=
  ⟨rfl, rfl, rfl, rfl, rfl, rfl, rfl, rfl, rfl, rfl, rfl, rfl, rfl⟩

/-! ### The mark `refused` -/

/-- No block step touches the mark: each is one register, buffer or clock event and control, and none of
these sets or clears it. -/
theorem blockStep_refused {s t : State} (h : blockStep s = .next t) : t.refused = s.refused := by
  obtain ⟨r, v, hf⟩ | ⟨r, v, hf⟩ | hf | hf | ⟨m, i, hf⟩ | ⟨m, c, b, -, -, -, -, hf⟩ :=
    blockStep_cases h
  all_goals exact hf.refused

/-- An issued word sets the mark, when it is refused, or leaves it, when its command starts. -/
theorem issueStep_refused {w : Word} {ops : OperandRecord} {s t : State}
    (h : issueStep w ops s = .next t) : t.refused = true ∨ t.refused = s.refused := by
  obtain ⟨reason, rfl⟩ | ⟨-, -, hstart⟩ := issueStep_cases h
  · exact .inl (s.refuse_refused reason)
  · obtain ⟨v, rfl⟩ | ⟨v, rfl⟩ | ⟨a, -, rfl⟩ | ⟨ms, -, -, rfl⟩ := hstart
    all_goals exact .inr rfl

/-- A step sets the mark or leaves it, and it sets it only where the host issues a command word. -/
theorem step_refused {s t : State} (h : step s = .next t) :
    t.refused = s.refused ∨
    (t.refused = true ∧ ∃ w ops rest, s.host = .issue w ops :: rest) := by
  obtain hb | ⟨rest, -, hb⟩ | ⟨w, ops, rest, hh, hi⟩ | ⟨rest, -, -, rfl⟩ | ⟨a, b, rest, -, -, rfl⟩ :=
    step_cases h
  · exact .inl (blockStep_refused hb)
  · exact .inl ((blockStep_refused hb).trans (s.hostDone_refused rest))
  · obtain hset | hkept := issueStep_refused hi
    · exact .inr ⟨hset, w, ops, rest, hh⟩
    · exact .inl (hkept.trans (s.hostDone_refused rest))
  · exact .inl rfl
  · exact .inl rfl

/-- Settles O49: the mark is false at reset, and a step sets it or leaves it. -/
theorem refusedIsNeverCleared : Obligations.RefusedIsNeverCleared := by
  refine ⟨rfl, fun s t hstep hset => ?_⟩
  obtain hkept | ⟨ht, -⟩ := step_refused hstep
  · exact hkept.trans hset
  · exact ht

end Sys2Proof.Machine
end

section
/-! PROOFS of the family 30_encoding.md: the command words (R101), the speed presets (R94) and the result
codes (R113). -/

namespace Sys2Proof.Machine

/-! ### Command words -/

/-- Settles O3: in each of the four words bits 31:4 are 0 and bits 3:0 name the command, whatever the
operand record holds, so the decoder computes its row. -/
theorem commandWordsDecode : Obligations.CommandWordsDecode :=
  fun _ => ⟨rfl, rfl, rfl, rfl⟩

/-! ### Speed presets -/

/-- Settles O58: both functions are tests against the fast speed. -/
theorem speedPresets : Obligations.SpeedPresets :=
  fun speedHz => ⟨divider_eq speedHz, nominal_eq speedHz⟩

/-! ### Result codes -/

/-- The result a code names, by the table of R113. -/
def resultOfCode : Nat → Option Result
  | 0 => some .ok
  | 1 => some .timeout
  | 2 => some .clockStretchTimeout
  | 3 => some .busError
  | 4 => some .lengthMismatch
  | 5 => some .invalidAddress
  | _ => none

@[simp] theorem resultOfCode_resultCode (r : Result) : resultOfCode (resultCode r) = some r := by
  cases r <;> rfl

/-- A code names one result, so two results with the same code are one. -/
theorem resultCode_injective : Function.Injective resultCode := by
  intro a b hcode
  have hname : some a = some b := by
    simpa only [resultOfCode_resultCode] using congrArg resultOfCode hcode
  exact Option.some.inj hname

/-- Settles O59: the codes are those of R113's table, and each can be read back. -/
theorem resultCodes : Obligations.ResultCodes :=
  ⟨rfl, rfl, rfl, rfl, rfl, rfl, fun _ _ hcode => resultCode_injective hcode⟩

end Sys2Proof.Machine
end

section
/-! PROOFS of the family 42_transfer_engine.md: the classifier's priority order (R164 to R169). -/

namespace Sys2Proof.Machine

/-! ### What a status value decides -/

/-- The classifier in the bits of the status word (R82), in the order of R164. -/
theorem classify_eq_bits (w : Word) (remaining : Nat) :
    classify w remaining =
      if w.getLsbD 9 = true then .finish .clockStretchTimeout
      else if w.getLsbD 8 = true ∧ w.getLsbD 0 = false then .finish .busError
      else if w.getLsbD 1 = true then .doneCheck
      else if w.getLsbD 2 = true then (if remaining = 0 then .finish .lengthMismatch else .fill)
      else if w.getLsbD 3 = true then (if remaining = 0 then .finish .lengthMismatch else .drain)
      else .wait := by
  have herr : (statusErr w && !statusTa w) = true ↔ w.getLsbD 8 = true ∧ w.getLsbD 0 = false := by
    simp [statusErr, statusTa]
  exact if_congr Iff.rfl rfl (if_congr herr rfl rfl)

/-- The DONE branch by direction: only a Read goes on to its final drain (R166, R167). -/
theorem doneStep_eq (s : State) (m : Message) (c : Cursor) :
    doneStep s m c =
      if m.direction = .read then s.goto (.eng (.doneDrain .sample))
      else s.finish (if c.remaining = 0 then .ok else .lengthMismatch) := by
  cases hdir : m.direction <;> simp [doneStep, hdir, writeDoneResult]

/-! ### How the engine follows a decision -/

/-- The state in which the engine follows a decision on the message `m` at the cursor `c`. -/
def State.follow (s : State) (m : Message) (c : Cursor) : Decision → State
  | .finish res => s.finish res
  | .doneCheck => doneStep s m c
  | .fill => s.goto (.eng (.fill .sample))
  | .drain => s.goto (.eng (.drain .sample))
  | .wait => s.goto (.eng .deadline)

/-- CLASSIFY follows the classifier's decision. -/
theorem step_classify {s : State} {m : Message} {c : Cursor} {w : Word}
    (hl : s.loc = .eng (.classify w)) (hh : s.host = []) (hm : s.m = some m) (hc : s.cur = some c) :
    step s = .next (s.follow m c (classify w c.remaining)) := by
  rw [step_of_block hh (blockStep_classify hl), classifyStep_eq hm hc]
  cases classify w c.remaining <;> rfl

/-- Settles O33: the step follows the classifier's decision, and the decision's order is that of the bits;
the direction enters in the DONE branch only. -/
theorem classifierFollowsThePriorityOrder : Obligations.ClassifierFollowsThePriorityOrder := by
  intro s m c w hl hh hm hc
  rw [step_classify hl hh hm hc, classify_eq_bits]
  split_ifs with hclkt herr hdone hread hempty
  · rfl
  · rfl
  · simp only [State.follow, doneStep_eq, if_pos hread]; rfl
  · simp only [State.follow, doneStep_eq, if_neg hread, if_pos hempty]; rfl
  · simp only [State.follow, doneStep_eq, if_neg hread, if_neg hempty]; rfl
  all_goals rfl

end Sys2Proof.Machine
end

section
/-! PROOFS of the family other, encoding (30_encoding.md R101 to R107): the decoder and the encoder are
inverse, the table's rows do not overlap, and what is no row decodes to nothing. -/

namespace Sys2Proof.Machine

open Sys2Proof.Laws

/-! ### Decoding what was encoded -/

/-- Settles O8: one round trip per constructor. -/
theorem encodeThenDecodeIsIdentity : Obligations.EncodeThenDecodeIsIdentity := by
  intro i
  cases i with
  | init v => exact RoundTrip.init v
  | setSpeed v => exact RoundTrip.setSpeed v
  | probe a => exact RoundTrip.probe a
  | xfer ms => exact RoundTrip.xfer ms
  | rdS v => exact RoundTrip.rdS v
  | rdFifo v => exact RoundTrip.rdFifo v
  | wrCClear => exact RoundTrip.wrCClear
  | wrCStartW => exact RoundTrip.wrCStartW
  | wrCStartR => exact RoundTrip.wrCStartR
  | wrSClear => exact RoundTrip.wrSClear
  | wrDlen n => exact RoundTrip.wrDlen n
  | wrA a => exact RoundTrip.wrA a
  | wrFifo b => exact RoundTrip.wrFifo b
  | wrDivFast => exact RoundTrip.wrDivFast
  | wrDivStd => exact RoundTrip.wrDivStd
  | wrClkt => exact RoundTrip.wrClkt

/-! ### Encoding what was decoded -/

/-- A word whose value lies in its low n bits is the number those bits spell. -/
theorem natWord_extract_low {w : Word} {n : Nat} (h : w.toNat < 2 ^ n) :
    natWord (w.extractLsb' 0 n).toNat = w := by
  rw [toNat_extract_low w n h]
  exact BitVec.ofNat_toNat 32 w |>.trans (BitVec.setWidth_eq w)

/-- A word whose value is a byte is the zero extension of its low byte. -/
theorem zext32_extract_low {w : Word} (h : w.toNat < 2 ^ 8) : zext32 (w.extractLsb' 0 8) = w := by
  apply BitVec.eq_of_toNat_eq
  rw [toNat_zext32, toNat_extract_low w 8 h]

/-- What the decoder reads from a descriptor's fields is well formed and encodes to those fields. -/
theorem encode_of_kindOf {w : BitVec 1} {idx : BitVec 3} {data : Word} {i : Instr}
    (h : kindOf w idx data = some i) : i.wf = true ∧ encode i = .access (fields w idx data) := by
  unfold kindOf at h
  rcases ite_eq_iff.1 h with ⟨⟨rfl, rfl⟩, e⟩ | ⟨-, h⟩
  · cases e; exact ⟨rfl, rfl⟩
  rcases ite_eq_iff.1 h with ⟨⟨rfl, rfl⟩, e⟩ | ⟨-, h⟩
  · cases e; exact ⟨rfl, rfl⟩
  iterate 4
    rcases ite_eq_iff.1 h with ⟨⟨rfl, rfl, rfl⟩, e⟩ | ⟨-, h⟩
    · cases e; exact ⟨rfl, rfl⟩
  rcases ite_eq_iff.1 h with ⟨⟨rfl, rfl, hmask⟩, e⟩ | ⟨-, h⟩
  · have hlt := (and_mask16 data).1 hmask
    cases e
    rw [Instr.wf, encode, natWord_extract_low hlt, toNat_extract_low data 16 hlt]
    exact ⟨decide_eq_true (Nat.le_of_lt_succ hlt), rfl⟩
  rcases ite_eq_iff.1 h with ⟨⟨rfl, rfl, hmask⟩, e⟩ | ⟨-, h⟩
  · have hlt := (and_mask7 data).1 hmask
    cases e
    rw [Instr.wf, encode, natWord_extract_low hlt, toNat_extract_low data 7 hlt]
    exact ⟨decide_eq_true (Nat.le_of_lt_succ hlt), rfl⟩
  rcases ite_eq_iff.1 h with ⟨⟨rfl, rfl, hmask⟩, e⟩ | ⟨-, h⟩
  · cases e
    rw [encode, zext32_extract_low ((and_mask8 data).1 hmask)]
    exact ⟨rfl, rfl⟩
  iterate 3
    rcases ite_eq_iff.1 h with ⟨⟨rfl, rfl, rfl⟩, e⟩ | ⟨-, h⟩
    · cases e; exact ⟨rfl, rfl⟩
  cases h

/-- A legal descriptor is the encoding of the instruction it decodes to. -/
theorem encode_of_decodeAccess {d : Descriptor} {i : Instr} (h : decodeAccess d = some i) :
    i.wf = true ∧ encode i = .access d := by
  rw [eq_fields d, decodeAccess_fields] at h
  rw [eq_fields d]
  exact encode_of_kindOf h

/-- A command word is its reserved field over its op field (R100). -/
theorem commandReserved_append_commandOp (w : Word) : commandReserved w ++ commandOp w = w := by
  have hjoin : w.extractLsb' 4 28 ++ w.extractLsb' 0 4 = w.extractLsb' 0 (28 + 4) :=
    BitVec.extractLsb'_append_extractLsb'_eq_extractLsb' rfl
  exact hjoin.trans BitVec.extractLsb'_eq_self

/-- A command word that decodes is the word of the command it decodes to. -/
theorem encode_of_decodeCommand {w : Word} {ops : OperandRecord} {i : Instr}
    (h : decodeCommand w ops = some i) : i.wf = true ∧ ∃ ops', encode i = .command w ops' := by
  have hw := commandReserved_append_commandOp w
  unfold decodeCommand at h
  split_ifs at h with hres h1 h2 h3 h4 <;> cases h <;> rw [hres] at hw
  · rw [← hw, h1]; exact ⟨rfl, _, rfl⟩
  · rw [← hw, h2]; exact ⟨rfl, _, rfl⟩
  · rw [← hw, h3]; exact ⟨rfl, _, rfl⟩
  · rw [← hw, h4]; exact ⟨rfl, _, rfl⟩

/-- Settles O9: no bit of a legal descriptor, nor of a command word, is dropped by the decoder. -/
theorem decodeThenEncodeIsIdentity : Obligations.DecodeThenEncodeIsIdentity :=
  ⟨fun _ _ h => encode_of_decodeAccess h, fun _ _ _ h => encode_of_decodeCommand h⟩

/-! ### The rows -/

/-- Two rows that fit one descriptor agree on the bits both of them look at. -/
theorem patterns_agree_of_fits {p q : AccessRow} {d : Descriptor} (hp : p.fits d = true)
    (hq : q.fits d = true) : p.pattern &&& q.mask = q.pattern &&& p.mask := by
  have ep : d &&& p.mask = p.pattern := by simpa [AccessRow.fits] using hp
  have eq : d &&& q.mask = q.pattern := by simpa [AccessRow.fits] using hq
  rw [← ep, ← eq, BitVec.and_assoc, BitVec.and_assoc, BitVec.and_comm p.mask]

/-- The patterns of two different rows differ on a bit both rows look at. -/
theorem patterns_differ :
    ∀ i j : Fin accessRows.length,
      accessRows[i].pattern &&& accessRows[j].mask = accessRows[j].pattern &&& accessRows[i].mask →
        i = j := by
  decide

/-- Settles O7: two rows that fit one descriptor agree where different rows differ. -/
theorem accessRowsDoNotOverlap : Obligations.AccessRowsDoNotOverlap := by
  intro d i j hi hj
  have row : ∀ k : Fin 12, accessRows[k.val]? = some (accessRows[k.val]'k.isLt) :=
    fun k => List.getElem?_eq_getElem k.isLt
  rw [row, Option.any_some] at hi hj
  exact patterns_differ i j (patterns_agree_of_fits hi hj)

/-! ### Illegal descriptors -/

theorem kindOf_unmappedOffset (w : BitVec 1) (data : Word) : kindOf w 6 data = none := by
  simp [kindOf]

/-- A read of any register but S and FIFO is illegal. -/
theorem decodeAccess_read_eq_none {r : Reg} (hs : r ≠ .s) (hf : r ≠ .fifo) (v : Word) :
    decodeAccess (readDescriptor r v) = none := by
  rw [decodeAccess_read]
  cases r with
  | s => exact absurd rfl hs
  | fifo => exact absurd rfl hf
  | _ => rfl

/-- The words a write of the register may carry (R105). -/
def writable (v : Word) : Reg → Prop
  | .c => v = 0x00000030 ∨ v = 0x00008080 ∨ v = 0x00008081
  | .s => v = 0x00000302
  | .dlen => v.toNat ≤ 0xFFFF
  | .a => v.toNat ≤ 0x7F
  | .fifo => v.toNat ≤ 0xFF
  | .div => v = 1500 ∨ v = 6000
  | .clkt => v = 0

/-- The register an index names, by the table of 10_state.md R30; the free index 6 names none and is given
the last register. -/
def regOfIndex (i : BitVec 3) : Reg :=
  match i.toNat with
  | 0 => .c
  | 1 => .s
  | 2 => .dlen
  | 3 => .a
  | 4 => .fifo
  | 5 => .div
  | _ => .clkt

theorem regOfIndex_index (r : Reg) : regOfIndex r.index = r := by
  cases r <;> rfl

theorem regIndex_injective : Function.Injective Reg.index :=
  Function.LeftInverse.injective regOfIndex_index

theorem writeDescriptor_inj {r r' : Reg} {v v' : Word} (h : writeDescriptor r v = writeDescriptor r' v') :
    r = r' ∧ v = v' := by
  obtain ⟨-, hr, hv⟩ := (fields_inj ..).1 h
  exact ⟨regIndex_injective hr, hv⟩

theorem readDescriptor_ne_writeDescriptor (r r' : Reg) (v v' : Word) :
    readDescriptor r v ≠ writeDescriptor r' v' := by
  intro h
  obtain ⟨hw, -, -⟩ := (fields_inj ..).1 h
  exact absurd hw (by decide)

/-- A well-formed instruction that is a write encodes a word its register may carry. -/
theorem writable_of_encode {i : Instr} {r : Reg} {v : Word} (hwf : i.wf = true)
    (h : encode i = .access (writeDescriptor r v)) : writable v r := by
  have inj : ∀ {r' v'}, encode i = .access (writeDescriptor r' v') → r' = r ∧ v' = v :=
    fun e => writeDescriptor_inj (Code.access.inj (e.symm.trans h))
  cases i with
  | init | setSpeed | probe | xfer => cases h
  | rdS | rdFifo => exact absurd (Code.access.inj h) (readDescriptor_ne_writeDescriptor _ _ _ _)
  | wrCClear => obtain ⟨rfl, rfl⟩ := inj rfl; exact .inl rfl
  | wrCStartW => obtain ⟨rfl, rfl⟩ := inj rfl; exact .inr (.inl rfl)
  | wrCStartR => obtain ⟨rfl, rfl⟩ := inj rfl; exact .inr (.inr rfl)
  | wrSClear => obtain ⟨rfl, rfl⟩ := inj rfl; exact rfl
  | wrDlen n =>
    obtain ⟨rfl, rfl⟩ := inj rfl
    have hn : n ≤ 0xFFFF := of_decide_eq_true hwf
    exact (toNat_natWord n (by omega)).trans_le hn
  | wrA a =>
    obtain ⟨rfl, rfl⟩ := inj rfl
    have ha : a ≤ 0x7F := of_decide_eq_true hwf
    exact (toNat_natWord a (by omega)).trans_le ha
  | wrFifo b =>
    obtain ⟨rfl, rfl⟩ := inj rfl
    exact (toNat_zext32 b).trans_le (Nat.le_of_lt_succ b.isLt)
  | wrDivFast => obtain ⟨rfl, rfl⟩ := inj rfl; exact .inl rfl
  | wrDivStd => obtain ⟨rfl, rfl⟩ := inj rfl; exact .inr rfl
  | wrClkt => obtain ⟨rfl, rfl⟩ := inj rfl; exact rfl

/-- A write decodes only with a word its register may carry. -/
theorem writable_of_decodeAccess {r : Reg} {v : Word} {i : Instr}
    (h : decodeAccess (writeDescriptor r v) = some i) : writable v r := by
  obtain ⟨hwf, henc⟩ := encode_of_decodeAccess h
  exact writable_of_encode hwf henc

/-- A write of a word its register may not carry is illegal. -/
theorem decodeAccess_write_eq_none {r : Reg} {v : Word} (h : ¬ writable v r) :
    decodeAccess (writeDescriptor r v) = none :=
  Option.eq_none_iff_forall_ne_some.2 fun _ hi => h (writable_of_decodeAccess hi)

/-- Settles O6: offset 0x18 is no row's; a read or a write that fits no row of its register decodes to
nothing. -/
theorem illegalDescriptorsDecodeToNothing : Obligations.IllegalDescriptorsDecodeToNothing := by
  refine ⟨fun d hd => ?_, fun r v hs hf => decodeAccess_read_eq_none hs hf v, ?_, ?_, ?_, ?_, ?_, ?_, ?_⟩
  · rw [eq_fields d, hd, decodeAccess_fields, kindOf_unmappedOffset]
  · rintro v h1 h2 h3
    exact decodeAccess_write_eq_none (by rintro (h | h | h) <;> contradiction)
  · exact fun v h => decodeAccess_write_eq_none h
  · exact fun v h => decodeAccess_write_eq_none (Nat.not_le_of_lt h)
  · exact fun v h => decodeAccess_write_eq_none (Nat.not_le_of_lt h)
  · exact fun v h => decodeAccess_write_eq_none (Nat.not_le_of_lt h)
  · rintro v h1 h2
    exact decodeAccess_write_eq_none (by rintro (h | h) <;> contradiction)
  · exact fun v h => decodeAccess_write_eq_none h

/-- Settles O4: each word computes to its row. -/
theorem accessWordsDecode : Obligations.AccessWordsDecode := by
  refine ⟨?_, ?_, ?_, ?_, ?_, ?_, ?_, ?_, ?_, ?_, ?_, ?_⟩ <;> decide

/-! ### Legal traces -/

/-- Settles O54: a legal read or write decodes, so its register is one of the two read, or its word one the
register may carry. -/
theorem legalTraceHoldsOnlyTheTwelveKinds : Obligations.LegalTraceHoldsOnlyTheTwelveKinds := by
  intro s htrace
  have write : ∀ r v, Event.write r v ∈ s.events → writable v r := by
    intro r v hmem
    obtain ⟨i, hi⟩ := Option.isSome_iff_exists.1 (htrace _ hmem)
    exact writable_of_decodeAccess hi
  refine ⟨fun r v hmem => ?_, write .c, write .s, write .dlen, write .a, write .fifo, write .div,
    write .clkt⟩
  by_contra hn
  obtain ⟨hs, hf⟩ := not_or.1 hn
  have hlegal : (decodeAccess (readDescriptor r v)).isSome = true := htrace _ hmem
  rw [decodeAccess_read_eq_none hs hf] at hlegal
  cases hlegal

end Sys2Proof.Machine
end

section
/-! PROOFS of the family other, the fetch of a step and the twelve accesses (40_register_interface.md R122 to
R134). -/

namespace Sys2Proof.Machine

/-! ### What a step runs -/

/-- Settles O10: the word the host issues decodes, so it is run. -/
theorem stepRunsTheIssuedCommand : Obligations.StepRunsTheIssuedCommand := by
  intro s w ops rest i hh hdec
  rw [step_host_issue hh, issueStep, hdec]
  rfl

/-- Settles O11: with the host's script over the step is the block's, and that runs what `loc` emits or does
in silence. -/
theorem stepRunsTheEmittedAccess : Obligations.StepRunsTheEmittedAccess :=
  ⟨fun _ _ _ _ hh hacc hdec hexec => step_of_block hh (blockStep_access hacc hdec hexec),
    fun _ hh hnone => step_of_block hh (blockStep_silent hnone),
    fun _ _ hh => step_host_pass hh⟩

/-- Settles O60: an idle block emits nothing, and its silent step waits. -/
theorem idleBlockWaits : Obligations.IdleBlockWaits :=
  fun _ hl hh => step_of_block hh (blockStep_idle hl)

/-- A word whose reserved field is not 0, or whose op is none of 1 to 4, spells no command (R103). -/
theorem decodeCommand_reserved {w : Word} (ops : OperandRecord)
    (h : (commandOp w).toNat = 0 ∨ 5 ≤ (commandOp w).toNat ∨ commandReserved w ≠ 0) :
    decodeCommand w ops = none := by
  have known : ∀ k : BitVec 4, 1 ≤ k.toNat → k.toNat ≤ 4 → commandReserved w = 0 → commandOp w ≠ k := by
    rintro k hlow hhigh hres rfl
    obtain h | h | h := h
    · omega
    · omega
    · exact h hres
  unfold decodeCommand
  by_cases hres : commandReserved w = 0
  · rw [if_pos hres, if_neg (known 1 (by decide) (by decide) hres),
      if_neg (known 2 (by decide) (by decide) hres), if_neg (known 3 (by decide) (by decide) hres),
      if_neg (known 4 (by decide) (by decide) hres)]
  · rw [if_neg hres]

/-- Settles O5: a reserved word decodes to nothing, and the step refuses it. -/
theorem reservedCommandWordIsRefused : Obligations.ReservedCommandWordIsRefused := by
  intro s w ops rest hh hres
  rw [step_host_issue hh, issueStep, decodeCommand_reserved ops hres]
  rfl

/-! ### The accesses -/

/-- Settles O12: each read is `regRead` with the answer it carries. -/
theorem readsComplete : Obligations.ReadsComplete := fun _ _ => ⟨rfl, rfl⟩

/-- Settles O13: each of the four is `regWrite` of its fixed word. -/
theorem controlAndStatusWritesComplete : Obligations.ControlAndStatusWritesComplete :=
  fun _ => ⟨rfl, rfl, rfl, rfl⟩

/-- Settles O14: an operand in its range is the value of the word written. -/
theorem configurationWritesComplete : Obligations.ConfigurationWritesComplete := by
  refine fun s => ⟨fun n hn => ⟨natWord n, toNat_natWord n ?_, rfl⟩,
    fun a ha => ⟨natWord a, toNat_natWord a ?_, rfl⟩,
    fun b => ⟨zext32 b, toNat_zext32 b, rfl⟩, rfl, rfl, rfl⟩ <;> omega

theorem Port.get_set (p : Port) (v : Word) (r r' : Reg) :
    (p.set v r).get r' = if r' = r then v else p.get r' := by
  cases r <;> cases r' <;> rfl

/-- An instruction with a descriptor runs as the one register read or write the descriptor names. -/
theorem exec_of_encode {i : Instr} {d : Descriptor} (h : encode i = .access d) (s : State) :
    ∃ r v, (d = readDescriptor r v ∧ exec i s = .next (s.regRead r v)) ∨
      (d = writeDescriptor r v ∧ exec i s = .next (s.regWrite r v)) := by
  cases i with
  | init | setSpeed | probe | xfer => cases h
  | rdS | rdFifo => exact ⟨_, _, .inl ⟨(Code.access.inj h).symm, rfl⟩⟩
  | _ => exact ⟨_, _, .inr ⟨(Code.access.inj h).symm, rfl⟩⟩

/-- Settles O15: the access is one `regRead` or one `regWrite`, which change the events, the device's answers
or the port, and nothing else. -/
theorem everyAccessIsOneEventAndNoBlockState : Obligations.EveryAccessIsOneEventAndNoBlockState := by
  intro i s d _ henc
  obtain ⟨r, v, ⟨rfl, hexec⟩ | ⟨rfl, hexec⟩⟩ := exec_of_encode henc s
  · exact ⟨_, .read r v, hexec, rfl, rfl, rfl, rfl, rfl, rfl, rfl, rfl, rfl, rfl, rfl, rfl, rfl, rfl, rfl,
      rfl, rfl, rfl, fun _ => rfl, fun _ => .inl rfl⟩
  · refine ⟨_, .write r v, hexec, rfl, rfl, rfl, rfl, rfl, rfl, rfl, rfl, rfl, rfl, rfl, rfl, rfl, rfl, rfl,
      rfl, rfl, rfl, fun _ => rfl, fun r' => ?_⟩
    rw [State.regWrite_port, Port.get_set]
    by_cases hr : r' = r
    · subst hr
      exact .inr ⟨v, rfl, if_pos rfl⟩
    · exact .inl (if_neg hr)

/-! ### Status bits -/

/-- Settles O57: the classifier reads the six bits and no other. -/
theorem otherStatusBitsDecideNothing : Obligations.OtherStatusBitsDecideNothing := by
  intro w v remaining h
  simp only [classify_eq_bits, h 0 (by simp), h 1 (by simp), h 2 (by simp), h 3 (by simp), h 8 (by simp),
    h 9 (by simp)]

end Sys2Proof.Machine
end

section
/-! PROOFS of the family other, admission and refusal of the four commands (70_reset_and_hazards.md R286,
R287). -/

namespace Sys2Proof.Machine

/-! ### Admission -/

/-- A refusal answers the state with the reason recorded. -/
theorem admission_of_refusal {s : State} {own : Option RefuseReason} {reason : RefuseReason}
    (h : s.refusal own = some reason) (started : State) :
    s.admission own started = .next (s.refuse reason) := by
  rw [State.admission, h]

theorem refusal_of_running {s : State} (hl : s.loc ≠ .idle) (own : Option RefuseReason) :
    s.refusal own = some .overlappingCommand :=
  if_pos ((isIdle_false_iff _).2 hl)

theorem refusal_of_misaligned {s : State} (hl : s.loc = .idle) (hb : s.handle.base % 4 ≠ 0)
    (own : Option RefuseReason) : s.refusal own = some .misalignedBase := by
  simp [State.refusal, hl, Loc.isIdle, hb]

theorem refusal_of_free {s : State} (hl : s.loc = .idle) (hb : s.handle.base % 4 = 0)
    (own : Option RefuseReason) : s.refusal own = own := by
  simp [State.refusal, hl, Loc.isIdle, hb]

/-- Every command word's meaning is an admission. -/
theorem exec_of_command {i : Instr} {w : Word} {ops : OperandRecord} (h : encode i = .command w ops)
    (s : State) : ∃ own started, exec i s = s.admission own started := by
  cases i with
  | init | setSpeed | probe | xfer => exact ⟨_, _, rfl⟩
  | _ => cases h

theorem all_messageWf_iff (ms : List Message) :
    ms.all messageWf = true ↔ ∀ m ∈ ms, m.length = m.buffer.size ∧ m.length ≤ 0xFFFF := by
  simp only [List.all_eq_true, messageWf_iff]
  rfl

/-- An XFER on an initialized block has no reason of its own exactly when all its messages are well formed. -/
theorem xferRefusal_of_initialized {s : State} (hi : s.handle.initialized = true) (ms : List Message) :
    xferRefusal ms s = if ms.all messageWf = false then some .illFormedMessage else none := by
  simp [xferRefusal, hi]

theorem exec_init_of_ready {s : State} (h : Ready s) (v : Nat) :
    exec (.init v) s = .next (s.goto (.bc (.initClkt v))) := by
  obtain ⟨⟨hl, -, -, -⟩, hb, -⟩ := h
  exact admission_of_free hl hb _

theorem exec_setSpeed_of_ready {s : State} (h : Ready s) (v : Nat) :
    exec (.setSpeed v) s = .next (s.goto (.bc (.setSpeedDiv v))) := by
  obtain ⟨⟨hl, -, -, -⟩, hb, -⟩ := h
  exact admission_of_free hl hb _

theorem exec_probe_of_ready {s : State} (h : Ready s) (hi : s.handle.initialized = true) (a : Nat) :
    exec (.probe a) s = .next (s.enterEngine .probe (probeMessage a)) := by
  obtain ⟨⟨hl, -, -, -⟩, hb, -⟩ := h
  show s.admission (if s.handle.initialized then none else some .probeBeforeInit) _ = _
  rw [if_pos hi]
  exact admission_of_free hl hb _

theorem exec_xfer_of_ready {s : State} {ms : List Message} (h : Ready s) (hi : s.handle.initialized = true)
    (hms : ∀ m ∈ ms, m.length = m.buffer.size ∧ m.length ≤ 0xFFFF) :
    exec (.xfer ms) s = .next { s with seq := ms, idx := 0, loc := .seq } := by
  obtain ⟨⟨hl, -, -, -⟩, hb, -⟩ := h
  show s.admission (xferRefusal ms s) _ = _
  rw [xferRefusal_of_initialized hi, (all_messageWf_iff ms).2 hms]
  exact admission_of_free hl hb _

/-- Settles O16: a ready block has no reason to refuse. -/
theorem commandsStartWhenAdmitted : Obligations.CommandsStartWhenAdmitted :=
  fun _ h => ⟨exec_init_of_ready h, exec_setSpeed_of_ready h, fun a hi => exec_probe_of_ready h hi a,
    fun _ hi hms => exec_xfer_of_ready h hi hms⟩

/-! ### Refusals -/

/-- Settles O26: the overlap is the first reason looked for, whatever the command. -/
theorem commandsRefusedWhileOneRuns : Obligations.CommandsRefusedWhileOneRuns := by
  intro s i w ops hl henc
  obtain ⟨own, started, hexec⟩ := exec_of_command henc s
  rw [hexec, admission_of_refusal (refusal_of_running hl own)]
  rfl

/-- Settles O29: on an idle block the misaligned base is the first reason looked for. -/
theorem misalignedBaseRefusesCommands : Obligations.MisalignedBaseRefusesCommands := by
  intro s i w ops hl hb henc
  obtain ⟨own, started, hexec⟩ := exec_of_command henc s
  rw [hexec, admission_of_refusal (refusal_of_misaligned hl hb own)]
  rfl

/-- Settles O27: both commands look at `initialized` first. -/
theorem probeAndXferRefusedBeforeInit : Obligations.ProbeAndXferRefusedBeforeInit := by
  intro s a ms hl hb hi
  constructor
  · show s.admission (if s.handle.initialized then none else some .probeBeforeInit) _ = _
    rw [hi, if_neg Bool.false_ne_true, admission_of_refusal (refusal_of_free hl hb _)]
    rfl
  · show s.admission (xferRefusal ms s) _ = _
    rw [xferRefusal, if_pos hi, admission_of_refusal (refusal_of_free hl hb _)]
    rfl

/-- Settles O28: one ill-formed message fails the check of the whole list. -/
theorem illFormedMessageRefusesXfer : Obligations.IllFormedMessageRefusesXfer := by
  intro s ms m hl hb hi hm hbad
  have hall : ms.all messageWf = false := by
    rw [← Bool.not_eq_true, all_messageWf_iff]
    intro hwf
    obtain ⟨hsize, hmax⟩ := hwf m hm
    omega
  show s.admission (xferRefusal ms s) _ = _
  rw [xferRefusal_of_initialized hi, if_pos hall, admission_of_refusal (refusal_of_free hl hb _)]
  rfl

end Sys2Proof.Machine
end

section
/-! PROOFS of the family other, the labels of `loc`: when a label's procedure can go on, the event it makes,
and that `LabelStep` says all of a block step. -/

namespace Sys2Proof.Machine

/-! ### A block step is a step of its label -/

/-- The operand words of the entry fit their rows of the access table; every other label's access fits. -/
def EntryWordOk (s : State) : Loc → Prop
  | .eng (.entry .address) => ∀ m, s.m = some m →
      (decodeAccess (writeDescriptor .a (natWord m.chipAddress))).isSome = true
  | .eng (.entry .dataLength) => ∀ m, s.m = some m →
      (decodeAccess (writeDescriptor .dlen (natWord m.length))).isSome = true
  | _ => True

/-- The descriptor a step emits is legal. -/
theorem decodeAccess_isSome_of_blockStep {s t : State} {d : Descriptor} (h : blockStep s = .next t)
    (hd : accessAt s = some d) : (decodeAccess d).isSome = true := by
  rw [blockStep, hd] at h
  cases hi : decodeAccess d with
  | some i => rfl
  | none => simp [accessStep, hi] at h

theorem entryWordOk_of_blockStep {s t : State} (h : blockStep s = .next t) : EntryWordOk s s.loc := by
  have legal := fun d => decodeAccess_isSome_of_blockStep (d := d) h
  unfold EntryWordOk
  split
  case h_1 hl =>
    exact fun m hm => legal _ (by simp [accessAt, hl, engineAccess, entryAccess, hm, addressWord])
  case h_2 hl =>
    exact fun m hm => legal _ (by simp [accessAt, hl, engineAccess, entryAccess, hm, lengthWord])
  case h_3 => trivial

/-- An access that decodes runs, and `loc` moves on after it. -/
theorem blockStep_of_decodes {s t : State} {d : Descriptor} (hacc : accessAt s = some d)
    (hdec : (decodeAccess d).isSome = true)
    (hexec : ∀ i, decodeAccess d = some i → exec i s = .next t) :
    blockStep s = afterAccess t (descriptorData d) := by
  obtain ⟨i, hi⟩ := Option.isSome_iff_exists.1 hdec
  exact blockStep_access hacc hi (hexec i hi)

theorem blockStep_of_sampleStep {s t : State} {flag : Word → Bool} {move done : Label}
    (hread : s.pumpWanted = true → blockStep s = .next ((s.regRead .s (s.answer .s)).goto
      (.eng (if flag (s.answer .s) then move else done))))
    (hend : s.pumpWanted = false → blockStep s = pumpEnd s done)
    (h : SampleStep s t flag move done) : blockStep s = .next t := by
  obtain ⟨c, hc, ⟨h0, rfl⟩ | ⟨h0, rfl⟩⟩ := h
  · rw [hend (by simpa [pumpWanted_of hc] using h0), pumpEnd_eq hc]
  · exact hread (by simpa [pumpWanted_of hc] using h0)

theorem storeStep_eq_next {s t : State} {b : Byte} {next : Label} (h : StoreStep s t b next) :
    storeStep s b next = .next t := by
  obtain ⟨m, c, hm, hc, hp, rfl⟩ := h
  exact storeStep_eq hm hc hp b next

/-- The converse of `blockStep_inv`: what the step of a label leads to is where the block steps. -/
theorem blockStep_of_labelStep {s t : State} (hw : EntryWordOk s s.loc) (h : LabelStep s t s.loc) :
    blockStep s = .next t := by
  match hl : s.loc, h with
  | .idle, h => obtain rfl := h; exact blockStep_idle hl
  | .bc (.initClkt v), h => obtain rfl := h; exact blockStep_initClkt hl
  | .bc (.initDiv v), h => obtain rfl := h; exact blockStep_initDiv hl
  | .bc (.setSpeedDiv v), h => obtain rfl := h; exact blockStep_setSpeedDiv hl
  | .bc .probeClkt, h => obtain rfl := h; exact blockStep_probeClkt hl
  | .bc .probeDiv, h =>
    obtain ⟨res, hr, rfl⟩ := h
    simp [blockStep_probeDiv hl, State.probeDone, hr]
  | .seq, h =>
    obtain ⟨m, hm, rfl⟩ | ⟨hm, rfl⟩ := h <;> simp [blockStep_seq hl, seqStep, hm]
  | .eng .validate, h =>
    obtain ⟨m, hm, ⟨ha, rfl⟩ | ⟨ha, hret⟩⟩ := h
    · simp [blockStep_validate hl, validateStep_eq hm, ha]
    · simpa [blockStep_validate hl, validateStep_eq hm, ha] using hret
  | .eng (.entry .clearControl), h => obtain rfl := h; exact blockStep_entryClearControl hl
  | .eng (.entry .clearStatus), h => obtain rfl := h; exact blockStep_entryClearStatus hl
  | .eng (.entry .address), h =>
    obtain ⟨m, hm, rfl⟩ := h
    rw [hl] at hw
    rw [blockStep_of_decodes (by simp [accessAt, hl, engineAccess, entryAccess, hm, addressWord])
      (hw m hm) fun i hi => exec_of_address hi s]
    simp [afterAccess, hl, afterEngineAccess, EntryPoint.next]
  | .eng (.entry .dataLength), h =>
    obtain ⟨m, hm, rfl⟩ := h
    rw [hl] at hw
    rw [blockStep_of_decodes (by simp [accessAt, hl, engineAccess, entryAccess, hm, lengthWord])
      (hw m hm) fun i hi => exec_of_length hi s]
    simp [afterAccess, hl, afterEngineAccess, EntryPoint.next]
  | .eng (.entry .start), h => obtain ⟨m, hm, rfl⟩ := h; exact blockStep_entryStart hl hm
  | .eng (.entry .clock), h =>
    obtain ⟨m, hm, rfl⟩ := h
    rw [blockStep_entryClock hl, entryClockStep_eq hm]
  | .eng .pollRead, h => obtain rfl := h; exact blockStep_pollRead hl
  | .eng (.classify w), h =>
    obtain ⟨m, c, hm, hc, h⟩ := h
    rw [blockStep_classify hl, classifyStep_eq hm hc]
    obtain ⟨res, hd, rfl⟩ | ⟨hd, rfl⟩ | ⟨hd, rfl⟩ | ⟨hd, rfl⟩ | ⟨hd, rfl⟩ := h <;> rw [hd]
  | .eng (.fill .sample), h =>
    exact blockStep_of_sampleStep (blockStep_fillSample hl) (blockStep_fillEnd hl) h
  | .eng (.fill .load), h =>
    obtain ⟨m, c, hm, hc, hp, rfl⟩ := h
    simp [blockStep_fillLoad hl, loadStep, hm, hc, hp]
  | .eng (.fill (.push b)), h =>
    obtain ⟨c, hc, rfl⟩ := h
    simp [blockStep_fillPush hl, State.pumped, hc]
  | .eng (.drain .sample), h =>
    exact blockStep_of_sampleStep (blockStep_drainSample hl) (blockStep_drainEnd hl) h
  | .eng (.drain .pop), h => obtain rfl := h; exact blockStep_drainPop hl
  | .eng (.drain (.store b)), h => rw [blockStep_drainStore hl]; exact storeStep_eq_next h
  | .eng (.doneDrain .sample), h =>
    exact blockStep_of_sampleStep (blockStep_doneDrainSample hl) (blockStep_doneDrainEnd hl) h
  | .eng (.doneDrain .pop), h => obtain rfl := h; exact blockStep_doneDrainPop hl
  | .eng (.doneDrain (.store b)), h =>
    rw [blockStep_doneDrainStore hl]; exact storeStep_eq_next h
  | .eng .doneRecheck, h =>
    obtain ⟨c, hc, rfl⟩ := h
    simp [blockStep_recheck hl, State.recheck, hc]
  | .eng .deadline, h =>
    obtain ⟨d, hd, ⟨hpast, rfl⟩ | ⟨hpast, rfl⟩⟩ := h <;>
      simp [blockStep_deadline hl, deadlineStep, hd, hpast]
  | .eng (.exit .clearControl), h => obtain rfl := h; exact blockStep_exitControl hl
  | .eng (.exit .clearStatus), h =>
    obtain ⟨res, hr, hret⟩ := h
    simpa [blockStep_exitStatus hl, State.exitDone, hr] using hret

/-! ### When a label's procedure can go on -/

/-- A message and a cursor inside its buffer (20_memory.md R53). -/
def AtBufferByte (s : State) : Prop := ∃ m c, s.m = some m ∧ s.cur = some c ∧ c.position < m.length

/-- What the procedure at a label needs to go on. -/
def LabelReady (s : State) : Loc → Prop
  | .bc .probeDiv => s.r.isSome = true
  | .eng .validate => ∃ m, s.m = some m ∧
      (addressValid m.chipAddress = true ∨ s.caller.isSome = true)
  | .eng (.entry .clearControl) => True
  | .eng (.entry .clearStatus) => True
  | .eng (.entry _) => s.m.isSome = true
  | .eng (.classify _) => s.m.isSome = true ∧ s.cur.isSome = true
  | .eng (.fill .load) => AtBufferByte s
  | .eng (.fill _) => s.cur.isSome = true
  | .eng (.drain .sample) => s.cur.isSome = true
  | .eng (.drain (.store _)) => AtBufferByte s
  | .eng (.doneDrain .sample) => s.cur.isSome = true
  | .eng (.doneDrain (.store _)) => AtBufferByte s
  | .eng .doneRecheck => s.cur.isSome = true
  | .eng .deadline => s.deadline.isSome = true
  | .eng (.exit .clearStatus) => s.r.isSome = true ∧ s.caller.isSome = true
  | _ => True

theorem exists_engineReturn_iff {s : State} {res : Result} :
    (∃ t, s.engineReturn res = .next t) ↔ s.caller.isSome = true := by
  cases hk : s.caller with
  | none => simp [State.engineReturn, hk]
  | some k =>
    cases k with
    | probe => simp [State.engineReturn, hk]
    | sequencer => by_cases hres : res = .ok <;> simp [State.engineReturn, hk, hres]

theorem exists_sampleStep_iff {s : State} {flag : Word → Bool} {move done : Label} :
    (∃ t, SampleStep s t flag move done) ↔ s.cur.isSome = true := by
  rw [Option.isSome_iff_exists]
  constructor
  · rintro ⟨t, c, hc, -⟩
    exact ⟨c, hc⟩
  · rintro ⟨c, hc⟩
    by_cases h0 : c.remaining = 0
    · exact ⟨_, c, hc, .inl ⟨h0, rfl⟩⟩
    · exact ⟨_, c, hc, .inr ⟨h0, rfl⟩⟩

theorem exists_storeStep_iff {s : State} {b : Byte} {next : Label} :
    (∃ t, StoreStep s t b next) ↔ AtBufferByte s :=
  ⟨fun ⟨_, m, c, hm, hc, hp, _⟩ => ⟨m, c, hm, hc, hp⟩,
    fun ⟨m, c, hm, hc, hp⟩ => ⟨_, m, c, hm, hc, hp, rfl⟩⟩

theorem exists_classify_iff {s : State} {w : Word} :
    (∃ t, EngineStep s t (.classify w)) ↔ s.m.isSome = true ∧ s.cur.isSome = true := by
  rw [Option.isSome_iff_exists, Option.isSome_iff_exists]
  constructor
  · rintro ⟨t, m, c, hm, hc, -⟩
    exact ⟨⟨m, hm⟩, c, hc⟩
  · rintro ⟨⟨m, hm⟩, c, hc⟩
    cases hd : classify w c.remaining with
    | finish res => exact ⟨_, m, c, hm, hc, .inl ⟨res, hd, rfl⟩⟩
    | doneCheck => exact ⟨_, m, c, hm, hc, .inr (.inl ⟨hd, rfl⟩)⟩
    | fill => exact ⟨_, m, c, hm, hc, .inr (.inr (.inl ⟨hd, rfl⟩))⟩
    | drain => exact ⟨_, m, c, hm, hc, .inr (.inr (.inr (.inl ⟨hd, rfl⟩)))⟩
    | wait => exact ⟨_, m, c, hm, hc, .inr (.inr (.inr (.inr ⟨hd, rfl⟩)))⟩

theorem exists_validate_iff {s : State} :
    (∃ t, EngineStep s t .validate) ↔
      ∃ m, s.m = some m ∧ (addressValid m.chipAddress = true ∨ s.caller.isSome = true) := by
  constructor
  · rintro ⟨t, m, hm, ⟨ha, -⟩ | ⟨-, hret⟩⟩
    · exact ⟨m, hm, .inl ha⟩
    · exact ⟨m, hm, .inr (exists_engineReturn_iff.1 ⟨t, hret⟩)⟩
  · rintro ⟨m, hm, h⟩
    cases ha : addressValid m.chipAddress with
    | true => exact ⟨_, m, hm, .inl ⟨ha, rfl⟩⟩
    | false =>
      obtain ⟨t, hret⟩ := exists_engineReturn_iff.2 (h.resolve_left (by simp [ha]))
      exact ⟨t, m, hm, .inr ⟨ha, hret⟩⟩

theorem exists_seq (s : State) : ∃ t, LabelStep s t .seq := by
  cases hm : s.seq[s.idx]? with
  | some m => exact ⟨_, .inl ⟨m, hm, rfl⟩⟩
  | none => exact ⟨_, .inr ⟨hm, rfl⟩⟩

theorem exists_deadline_iff {s : State} :
    (∃ t, EngineStep s t .deadline) ↔ s.deadline.isSome = true := by
  rw [Option.isSome_iff_exists]
  constructor
  · rintro ⟨t, d, hd, -⟩
    exact ⟨d, hd⟩
  · rintro ⟨d, hd⟩
    cases hpast : deadlinePassed s.nowAnswer d with
    | true => exact ⟨_, d, hd, .inl ⟨hpast, rfl⟩⟩
    | false => exact ⟨_, d, hd, .inr ⟨hpast, rfl⟩⟩

theorem exists_exitStatus_iff {s : State} :
    (∃ t, EngineStep s t (.exit .clearStatus)) ↔ s.r.isSome = true ∧ s.caller.isSome = true := by
  constructor
  · rintro ⟨t, res, hr, hret⟩
    exact ⟨Option.isSome_iff_exists.2 ⟨res, hr⟩,
      (exists_engineReturn_iff (s := s.regWrite .s 0x00000302)).1 ⟨t, hret⟩⟩
  · rintro ⟨hr, hk⟩
    obtain ⟨res, hr⟩ := Option.isSome_iff_exists.1 hr
    obtain ⟨t, hret⟩ := (exists_engineReturn_iff (s := s.regWrite .s 0x00000302) (res := res)).2 hk
    exact ⟨t, res, hr, hret⟩

/-- A value that an option holds is all a step needs that is a function of it. -/
theorem exists_eq_iff_isSome {α : Type} {o : Option α} (f : α → State) :
    (∃ t, ∃ a, o = some a ∧ t = f a) ↔ o.isSome = true := by
  rw [Option.isSome_iff_exists]
  exact ⟨fun ⟨_, a, ha, _⟩ => ⟨a, ha⟩, fun ⟨a, ha⟩ => ⟨f a, a, ha, rfl⟩⟩

/-- A label leads somewhere exactly when its procedure has what it needs. -/
theorem exists_labelStep_iff (s : State) : ∀ l : Loc, (∃ t, LabelStep s t l) ↔ LabelReady s l
  | .idle | .bc (.initClkt _) | .bc (.initDiv _) | .bc (.setSpeedDiv _) | .bc .probeClkt
  | .eng (.entry .clearControl) | .eng (.entry .clearStatus) | .eng .pollRead | .eng (.drain .pop)
  | .eng (.doneDrain .pop) | .eng (.exit .clearControl) => ⟨fun _ => trivial, fun _ => ⟨_, rfl⟩⟩
  | .bc .probeDiv | .eng (.entry .address) | .eng (.entry .dataLength) | .eng (.entry .start)
  | .eng (.entry .clock) | .eng (.fill (.push _)) | .eng .doneRecheck => exists_eq_iff_isSome _
  | .seq => ⟨fun _ => trivial, fun _ => exists_seq s⟩
  | .eng .validate => exists_validate_iff
  | .eng (.classify _) => exists_classify_iff
  | .eng (.fill .sample) | .eng (.drain .sample) | .eng (.doneDrain .sample) => exists_sampleStep_iff
  | .eng (.fill .load) =>
    ⟨fun ⟨_, m, c, hm, hc, hp, _⟩ => ⟨m, c, hm, hc, hp⟩,
      fun ⟨m, c, hm, hc, hp⟩ => ⟨_, m, c, hm, hc, hp, rfl⟩⟩
  | .eng (.drain (.store _)) | .eng (.doneDrain (.store _)) => exists_storeStep_iff
  | .eng .deadline => exists_deadline_iff
  | .eng (.exit .clearStatus) => exists_exitStatus_iff

/-- The block steps exactly when its label's procedure has what it needs and its entry word is legal. -/
theorem exists_blockStep_iff (s : State) :
    (∃ t, blockStep s = .next t) ↔ EntryWordOk s s.loc ∧ LabelReady s s.loc := by
  rw [← exists_labelStep_iff]
  exact ⟨fun ⟨t, h⟩ => ⟨entryWordOk_of_blockStep h, t, blockStep_inv h⟩,
    fun ⟨hw, t, h⟩ => ⟨t, blockStep_of_labelStep hw h⟩⟩

end Sys2Proof.Machine
end

section
/-! PROOFS of the family other, every step: the host's part, when a step can be taken (20_memory.md R60), what
it may change (10_state.md R21, 20_memory.md R52, 60_exceptions.md R263), and the event it makes. -/

namespace Sys2Proof.Machine

/-! ### A step is the block's or the host's -/

/-- What the host does in a step: a refused request, an admitted command, or a store between commands. -/
def HostStep (s t : State) : Prop :=
  (∃ reason, t = s.refuse reason) ∨
  (s.loc = .idle ∧ s.handle.base % 4 = 0 ∧
    ((∃ v, t = s.goto (.bc (.initClkt v))) ∨
     (∃ v, t = s.goto (.bc (.setSpeedDiv v))) ∨
     (∃ a, s.handle.initialized = true ∧ t = s.enterEngine .probe (probeMessage a)) ∨
     (∃ ms, s.handle.initialized = true ∧ ms.all messageWf = true ∧
       t = { s with seq := ms, idx := 0, loc := .seq }))) ∨
  (s.loc = .idle ∧ ∃ a b, t = s.hostStore a b)

/-- A step is a block step or the host's, the script moved on or not. An idle wait is a block step. -/
theorem step_inv {s t : State} (h : step s = .next t) :
    ∃ rest, blockStep (s.hostDone rest) = .next t ∨ HostStep (s.hostDone rest) t := by
  obtain hb | ⟨rest, -, hb⟩ | ⟨w, ops, rest, -, hi⟩ | ⟨rest, -, hl, rfl⟩ | ⟨a, b, rest, -, hl, rfl⟩ :=
    step_cases h
  · exact ⟨s.host, .inl hb⟩
  · exact ⟨rest, .inl hb⟩
  · refine ⟨rest, .inr ?_⟩
    obtain hrefuse | hstart := issueStep_cases hi
    · exact .inl hrefuse
    · exact .inr (.inl hstart)
  · exact ⟨rest, .inl (blockStep_idle hl)⟩
  · exact ⟨rest, .inr (.inr (.inr ⟨hl, a, b, rfl⟩))⟩

/-- What the host's part of a step leaves alone. -/
structure HostFrame (s t : State) : Prop where
  handle : t.handle = s.handle
  phase  : t.phase = s.phase
  cur    : t.cur = s.cur
  port   : t.port = s.port
  events : t.events = s.events
  clock  : t.clock = s.clock

theorem hostStep_frame {s t : State} (h : HostStep s t) : HostFrame s t := by
  obtain ⟨reason, rfl⟩ | ⟨-, -, ⟨v, rfl⟩ | ⟨v, rfl⟩ | ⟨a, -, rfl⟩ | ⟨ms, -, -, rfl⟩⟩ | ⟨-, a, b, rfl⟩ := h
  all_goals constructor <;> rfl

/-! ### A step can be taken -/

/-- Every instruction answers a next state. -/
theorem exists_exec (i : Instr) (s : State) : ∃ t, exec i s = .next t := by
  have admits : ∀ own started, ∃ t, s.admission own started = .next t := by
    intro own started
    obtain ⟨reason, -, h⟩ | ⟨-, -, -, h⟩ := admission_cases s own started
    · exact ⟨_, h⟩
    · exact ⟨_, h⟩
  cases i with
  | init | setSpeed | probe | xfer => exact admits _ _
  | _ => exact ⟨_, rfl⟩

theorem exists_issueStep (w : Word) (ops : OperandRecord) (s : State) :
    ∃ t, issueStep w ops s = .next t := by
  cases hd : decodeCommand w ops with
  | none => exact ⟨_, by rw [issueStep, hd]⟩
  | some i =>
    obtain ⟨t, ht⟩ := exists_exec i s
    exact ⟨t, by rw [issueStep, hd]; exact ht⟩

/-- A block whose label is ready steps, whatever the host does. -/
theorem exists_step_of_ready {s : State} (hw : EntryWordOk s s.loc) (hr : LabelReady s s.loc) :
    ∃ t, step s = .next t := by
  have hb := (exists_blockStep_iff s).2 ⟨hw, hr⟩
  cases hh : s.host with
  | nil => rwa [step_host_nil hh]
  | cons act rest =>
    cases act with
    | pass =>
      rw [step_host_pass hh]
      exact (exists_blockStep_iff (s.hostDone rest)).2 ⟨hw, hr⟩
    | issue w ops =>
      rw [step_host_issue hh]
      exact exists_issueStep w ops (s.hostDone rest)
    | await =>
      rw [step_host_await hh]
      split
      · exact ⟨_, rfl⟩
      · exact hb
    | store a b =>
      rw [step_host_store hh]
      split
      · exact ⟨_, rfl⟩
      · exact hb

/-- A step can be taken when the host issues a word, or the block's label is ready, and in no other case. -/
theorem exists_step_iff (s : State) : (∃ t, step s = .next t) ↔
    (∃ w ops rest, s.host = .issue w ops :: rest) ∨ (EntryWordOk s s.loc ∧ LabelReady s s.loc) := by
  constructor
  · rintro ⟨t, h⟩
    obtain hb | ⟨rest, -, hb⟩ | ⟨w, ops, rest, hh, -⟩ | ⟨rest, -, hl, -⟩ | ⟨a, b, rest, -, hl, -⟩ :=
      step_cases h
    · exact .inr ((exists_blockStep_iff s).1 ⟨t, hb⟩)
    · exact .inr ((exists_blockStep_iff (s.hostDone rest)).1 ⟨t, hb⟩)
    · exact .inl ⟨w, ops, rest, hh⟩
    · exact .inr (by rw [hl]; exact ⟨trivial, trivial⟩)
    · exact .inr (by rw [hl]; exact ⟨trivial, trivial⟩)
  · rintro (⟨w, ops, rest, hh⟩ | ⟨hw, hr⟩)
    · rw [step_host_issue hh]
      exact exists_issueStep w ops (s.hostDone rest)
    · exact exists_step_of_ready hw hr

/-- Settles O55: neither the host's issue nor the label's readiness looks at the device's answers. -/
theorem stepNeverWaitsForTheDevice : Obligations.StepNeverWaitsForTheDevice :=
  fun s d1 d2 h => (exists_step_iff { s with device := d2 }).2
    ((exists_step_iff { s with device := d1 }).1 h)

/-! ### What a step may change -/

/-- Settles O50: no control, access or host action changes the base. -/
theorem baseNeverChanges : Obligations.BaseNeverChanges := by
  intro s t h
  obtain ⟨rest, hb | hs⟩ := step_inv h
  · obtain ⟨r, v, hf⟩ | ⟨r, v, hf⟩ | hf | hf | ⟨m, i, hf⟩ | ⟨m, c, b, -, -, -, -, hf⟩ :=
      blockStep_cases hb
    all_goals exact hf.base
  · exact congrArg Handle.base (hostStep_frame hs).handle

/-- A block step makes no event or one, after all earlier ones. -/
theorem blockStep_events_le_one {s t : State} (h : blockStep s = .next t) :
    t.events = s.events ∨ ∃ e, t.events = s.events ++ [e] := by
  obtain ⟨r, v, hf⟩ | ⟨r, v, hf⟩ | hf | hf | ⟨m, i, hf⟩ | ⟨m, c, b, -, -, -, -, hf⟩ :=
    blockStep_cases h
  · exact .inr ⟨_, hf.events⟩
  · exact .inr ⟨_, hf.events⟩
  · exact .inl hf.events
  · exact .inr ⟨_, hf.events⟩
  · exact .inr ⟨_, hf.events⟩
  · exact .inr ⟨_, hf.events⟩

/-- Settles O47: a block step makes at most one event, the host none. -/
theorem stepMakesAtMostOneEvent : Obligations.StepMakesAtMostOneEvent := by
  intro s t h
  obtain ⟨rest, hb | hs⟩ := step_inv h
  · exact blockStep_events_le_one (s := s.hostDone rest) hb
  · exact .inl (hostStep_frame hs).events

/-- A block step that is no clock read leaves the clock; a clock read answers the clock's new value. -/
theorem blockStep_clock {s t : State} (h : blockStep s = .next t) :
    (t.clock = s.clock ∧ ∀ x, t.events ≠ s.events ++ [.now x]) ∨
    (t.clock = s.nowAnswer ∧ t.events = s.events ++ [.now s.nowAnswer]) := by
  have other : ∀ e, t.events = s.events ++ [e] → (∀ x, e ≠ .now x) →
      ∀ x, t.events ≠ s.events ++ [.now x] := by
    intro e he hne x hx
    exact hne x (List.singleton_injective (List.append_cancel_left (he.symm.trans hx)))
  obtain ⟨r, v, hf⟩ | ⟨r, v, hf⟩ | hf | hf | ⟨m, i, hf⟩ | ⟨m, c, b, -, -, -, -, hf⟩ :=
    blockStep_cases h
  · exact .inl ⟨hf.clock, other _ hf.events (by simp)⟩
  · exact .inl ⟨hf.clock, other _ hf.events (by simp)⟩
  · exact .inl ⟨hf.clock, fun x => by simp [hf.events]⟩
  · exact .inr ⟨hf.clock, hf.events⟩
  · exact .inl ⟨hf.clock, other _ hf.events (by simp)⟩
  · exact .inl ⟨hf.clock, other _ hf.events (by simp)⟩

/-- Settles O48: the clock moves at a clock read alone, by an advance, to the answer recorded. -/
theorem clockNeverGoesBack : Obligations.ClockNeverGoesBack := by
  intro s t h
  obtain ⟨rest, hb | hs⟩ := step_inv h
  · obtain ⟨hclock, hnone⟩ | ⟨hclock, hev⟩ := blockStep_clock hb
    · exact ⟨hclock.ge, fun x hx => absurd hx (hnone x)⟩
    · refine ⟨hclock ▸ Nat.le_add_right _ _, fun x hx => hclock.trans ?_⟩
      exact Event.now.inj (List.singleton_injective (List.append_cancel_left (hev.symm.trans hx)))
  · exact ⟨(hostStep_frame hs).clock.ge, fun x hx => by simp [(hostStep_frame hs).events] at hx⟩

/-- A block step leaves memory, or is the BufWrite of a Drain. -/
theorem blockStep_mem {s t : State} (h : blockStep s = .next t) :
    t.mem = s.mem ∨ ∃ m c b, s.m = some m ∧ s.cur = some c ∧ c.position < m.length ∧
      (s.loc = .eng (.drain (.store b)) ∨ s.loc = .eng (.doneDrain (.store b))) ∧
      t.mem = s.mem.write (bufAddress m c.position) b := by
  obtain ⟨r, v, hf⟩ | ⟨r, v, hf⟩ | hf | hf | ⟨m, i, hf⟩ | ⟨m, c, b, hm, hc, hp, hl, hf⟩ :=
    blockStep_cases h
  · exact .inl hf.mem
  · exact .inl hf.mem
  · exact .inl hf.mem
  · exact .inl hf.mem
  · exact .inl hf.mem
  · exact .inr ⟨m, c, b, hm, hc, hp, hl, hf.mem⟩

/-- Settles O53: the block writes the one byte of a BufWrite, the host its one byte between commands. -/
theorem memoryChangesOnlyAtTheStoredByte : Obligations.MemoryChangesOnlyAtTheStoredByte := by
  intro s t h
  have block : ∀ rest, blockStep (s.hostDone rest) = .next t →
      (∀ x, t.mem.read x = s.mem.read x) ∨
      (∃ m c b, s.m = some m ∧ s.cur = some c ∧ c.position < m.length ∧
        (s.loc = .eng (.drain (.store b)) ∨ s.loc = .eng (.doneDrain (.store b))) ∧
        (∀ x, x ≠ bufAddress m c.position → t.mem.read x = s.mem.read x) ∧
        (s.mem.wf = true → t.mem.read (bufAddress m c.position) = b)) := by
    intro rest hb
    obtain hmem | ⟨m, c, b, hm, hc, hp, hl, hmem⟩ := blockStep_mem hb
    · exact .inl fun x => by rw [hmem]; rfl
    · refine .inr ⟨m, c, b, hm, hc, hp, hl, fun x hx => ?_, fun hwf => ?_⟩
      · rw [hmem]; exact Memory.read_write_other hx _ _
      · rw [hmem]; exact Memory.read_write_same hwf _ _
  obtain hb | ⟨rest, -, hb⟩ | ⟨w, ops, rest, -, hi⟩ | ⟨rest, -, hl, rfl⟩ | ⟨a, b, rest, hh, hl, rfl⟩ :=
    step_cases h
  · obtain hmem | hstore := block s.host hb
    · exact .inl hmem
    · exact .inr (.inr hstore)
  · obtain hmem | hstore := block rest hb
    · exact .inl hmem
    · exact .inr (.inr hstore)
  · obtain ⟨reason, rfl⟩ | ⟨-, -, ⟨v, rfl⟩ | ⟨v, rfl⟩ | ⟨a, -, rfl⟩ | ⟨ms, -, -, rfl⟩⟩ := issueStep_cases hi
    all_goals exact .inl fun _ => rfl
  · exact .inl fun _ => rfl
  · exact .inr (.inl ⟨a, b, rest, hh, hl, fun x hx => Memory.read_write_other hx _ _⟩)

/-! ### The event of a label -/

/-- The event a step at a label makes, if it makes one. -/
def labelEvent (s : State) : Loc → Option Event
  | .idle => none
  | .bc (.initClkt _) => some (.write .clkt 0x00000000)
  | .bc (.initDiv v) => some (.write .div (divider v))
  | .bc (.setSpeedDiv v) => some (.write .div (divider v))
  | .bc .probeClkt => some (.write .clkt 0x00000000)
  | .bc .probeDiv => some (.write .div 0x00001770)
  | .seq => none
  | .eng .validate => none
  | .eng (.entry .clearControl) => some (.write .c 0x00000030)
  | .eng (.entry .clearStatus) => some (.write .s 0x00000302)
  | .eng (.entry .address) => s.m.map fun m => .write .a (natWord m.chipAddress)
  | .eng (.entry .dataLength) => s.m.map fun m => .write .dlen (natWord m.length)
  | .eng (.entry .start) => s.m.map fun m => .write .c (startWord m.direction)
  | .eng (.entry .clock) => some (.now s.nowAnswer)
  | .eng .pollRead => some (.read .s (s.answer .s))
  | .eng (.classify _) => none
  | .eng (.fill .sample) => if s.pumpWanted then some (.read .s (s.answer .s)) else none
  | .eng (.fill .load) =>
    s.m.bind fun m => s.cur.map fun c => .bufRead c.position (s.bufByte m c.position)
  | .eng (.fill (.push b)) => some (.write .fifo (zext32 b))
  | .eng (.drain .sample) => if s.pumpWanted then some (.read .s (s.answer .s)) else none
  | .eng (.drain .pop) => some (.read .fifo (s.answer .fifo))
  | .eng (.drain (.store b)) => s.cur.map fun c => .bufWrite c.position b
  | .eng (.doneDrain .sample) => if s.pumpWanted then some (.read .s (s.answer .s)) else none
  | .eng (.doneDrain .pop) => some (.read .fifo (s.answer .fifo))
  | .eng (.doneDrain (.store b)) => s.cur.map fun c => .bufWrite c.position b
  | .eng .doneRecheck => some (.read .s (s.answer .s))
  | .eng .deadline => some (.now s.nowAnswer)
  | .eng (.exit .clearControl) => some (.write .c 0x00000030)
  | .eng (.exit .clearStatus) => some (.write .s 0x00000302)

theorem sampleStep_events {s t : State} {flag : Word → Bool} {move done : Label}
    (h : SampleStep s t flag move done) : t.events = s.events ++
      (if s.pumpWanted then some (Event.read .s (s.answer .s)) else none).toList := by
  obtain ⟨c, hc, ⟨h0, rfl⟩ | ⟨h0, rfl⟩⟩ := h <;> simp [pumpWanted_of hc, h0]

theorem storeStep_events {s t : State} {b : Byte} {next : Label} (h : StoreStep s t b next) :
    t.events = s.events ++ (s.cur.map fun c => Event.bufWrite c.position b).toList := by
  obtain ⟨m, c, -, hc, -, rfl⟩ := h
  rw [hc]; rfl

/-- A step at a label makes the label's event and no other. -/
theorem labelStep_events {s t : State} {l : Loc} (h : LabelStep s t l) :
    t.events = s.events ++ (labelEvent s l).toList := by
  match l, h with
  | .idle, h => obtain rfl := h; exact (List.append_nil _).symm
  | .bc (.initClkt _), h | .bc (.initDiv _), h | .bc (.setSpeedDiv _), h | .bc .probeClkt, h
  | .eng (.entry .clearControl), h | .eng (.entry .clearStatus), h | .eng .pollRead, h
  | .eng (.drain .pop), h | .eng (.doneDrain .pop), h | .eng (.exit .clearControl), h =>
    obtain rfl := h; rfl
  | .bc .probeDiv, h => obtain ⟨res, -, rfl⟩ := h; rfl
  | .seq, h => obtain ⟨m, -, rfl⟩ | ⟨-, rfl⟩ := h <;> exact (List.append_nil _).symm
  | .eng .validate, h =>
    obtain ⟨m, -, ⟨-, rfl⟩ | ⟨-, hret⟩⟩ := h
    · exact (List.append_nil _).symm
    · exact (engineReturn_frame hret).events.trans (List.append_nil _).symm
  | .eng (.entry .address), h | .eng (.entry .dataLength), h | .eng (.entry .start), h =>
    obtain ⟨m, hm, rfl⟩ := h
    simp [labelEvent, hm]
  | .eng (.entry .clock), h => obtain ⟨m, -, rfl⟩ := h; rfl
  | .eng (.classify w), h =>
    obtain ⟨m, c, -, -, h⟩ := h
    obtain ⟨res, -, rfl⟩ | ⟨-, rfl⟩ | ⟨-, rfl⟩ | ⟨-, rfl⟩ | ⟨-, rfl⟩ := h
    · exact (List.append_nil _).symm
    · rw [doneStep_eq]; split <;> exact (List.append_nil _).symm
    all_goals exact (List.append_nil _).symm
  | .eng (.fill .sample), h | .eng (.drain .sample), h | .eng (.doneDrain .sample), h =>
    exact sampleStep_events h
  | .eng (.fill .load), h =>
    obtain ⟨m, c, hm, hc, -, rfl⟩ := h
    simp [labelEvent, hm, hc]
  | .eng (.fill (.push b)), h => obtain ⟨c, -, rfl⟩ := h; rfl
  | .eng (.drain (.store b)), h | .eng (.doneDrain (.store b)), h => exact storeStep_events h
  | .eng .doneRecheck, h => obtain ⟨c, -, rfl⟩ := h; rfl
  | .eng .deadline, h => obtain ⟨d, -, ⟨-, rfl⟩ | ⟨-, rfl⟩⟩ := h <;> rfl
  | .eng (.exit .clearStatus), h =>
    obtain ⟨res, -, hret⟩ := h
    exact (engineReturn_frame hret).events

/-- A block step that appends an event appends its label's. -/
theorem labelEvent_of_append {s t : State} {e : Event} (h : blockStep s = .next t)
    (he : t.events = s.events ++ [e]) : labelEvent s s.loc = some e := by
  rw [labelStep_events (blockStep_inv h)] at he
  exact Option.toList_eq_singleton_iff.1 (List.append_cancel_left he)

/-- A step that appends an event makes the event of the label it stands at. -/
theorem labelEvent_of_step {s t : State} {e : Event} (h : step s = .next t)
    (he : t.events = s.events ++ [e]) : labelEvent s s.loc = some e := by
  obtain ⟨rest, hb | hs⟩ := step_inv h
  · exact labelEvent_of_append (s := s.hostDone rest) hb he
  · simp [(hostStep_frame hs).events] at he

end Sys2Proof.Machine
end

section
/-! PROOFS of the family other, the good states (10_state.md R20 to R28): reset meets the invariants, every
step keeps them, and none of them stops. -/

namespace Sys2Proof.Machine

/-! ### What holds where a label leads -/

theorem locOk_commandReturn (s : State) (v : Return) : LocOk (s.commandReturn v) :=
  ⟨⟨⟨rfl, rfl, rfl⟩, rfl, rfl⟩, ⟨rfl, rfl⟩, rfl⟩

/-- The engine that has a message leaves its caller as it should be. -/
theorem locOk_engineReturn {s t : State} {m : Message} {res : Result} (hhas : EngineHas s m)
    (h : s.engineReturn res = .next t) : LocOk t := by
  obtain ⟨-, -, hi, hcaller⟩ := hhas
  obtain ⟨hk, rfl⟩ | ⟨-, -, rfl⟩ | ⟨-, -, rfl⟩ := engineReturn_inv h
  · obtain ⟨hk', -⟩ | ⟨-, hfree, -⟩ := hcaller
    · cases hk.symm.trans hk'
    · exact ⟨⟨⟨rfl, rfl, rfl⟩, rfl, rfl⟩, hfree, rfl, hi⟩
  · exact ⟨⟨⟨rfl, rfl, rfl⟩, rfl, rfl⟩, rfl, hi⟩
  · exact locOk_commandReturn s _

theorem locOk_of_polling {s : State} {m : Message} {c : Cursor} {l : Label} (hl : s.loc = .eng l)
    (hp : Polling s m c) (h : PollLabelOk m c l) : LocOk s := by
  unfold LocOk
  rw [hl]
  cases l with
  | validate | entry | exit => exact h.elim
  | _ => exact ⟨m, c, hp, h⟩

/-- A polling engine that finishes stands at its exit, cursor and deadline still held. -/
theorem locOk_finish {s : State} {m : Message} {c : Cursor} (hp : Polling s m c) (res : Result) :
    LocOk (s.finish res) := by
  obtain ⟨hhas, -, hc, hd, -, -⟩ := hp
  exact ⟨rfl, rfl, hd, m, c, hhas, hc⟩

/-- Moving a byte keeps the cursor on its message. -/
theorem polling_advance {s : State} {m : Message} {c : Cursor} (hp : Polling s m c)
    (h0 : c.remaining ≠ 0) : Polling { s with cur := some c.advance } m c.advance := by
  obtain ⟨hhas, ha, ⟨-, hsum⟩, hd, hphase, hr⟩ := hp
  refine ⟨hhas, ha, ⟨rfl, ?_⟩, hd, hphase, hr⟩
  simp only [Cursor.advance]
  omega

theorem cursor_eq_of_polling {s : State} {m : Message} {c c' : Cursor} (hp : Polling s m c)
    (hc : s.cur = some c') : c' = c := by
  obtain ⟨-, -, ⟨hcur, -⟩, -⟩ := hp
  exact Option.some.inj (hc.symm.trans hcur)

theorem message_eq_of_engineHas {s : State} {m m' : Message} (hhas : EngineHas s m)
    (hm : s.m = some m') : m' = m := by
  obtain ⟨hm', -⟩ := hhas
  exact Option.some.inj (hm.symm.trans hm')

theorem locOk_sampleStep {s t : State} {m : Message} {c : Cursor} {flag : Word → Bool}
    {move done : Label} (hp : Polling s m c) (h : SampleStep s t flag move done)
    (hmove : c.remaining ≠ 0 → PollLabelOk m c move) (hdone : PollLabelOk m c done) : LocOk t := by
  obtain ⟨c', hc, ⟨-, rfl⟩ | ⟨h0, rfl⟩⟩ := h
  · exact locOk_of_polling rfl hp hdone
  · obtain rfl := cursor_eq_of_polling hp hc
    refine locOk_of_polling rfl hp ?_
    split
    · exact hmove h0
    · exact hdone

theorem locOk_storeStep {s t : State} {m : Message} {c : Cursor} {b : Byte} {next : Label}
    (hp : Polling s m c) (h0 : c.remaining ≠ 0) (h : StoreStep s t b next)
    (hnext : PollLabelOk m c.advance next) : LocOk t := by
  obtain ⟨m', c', -, hc, -, rfl⟩ := h
  obtain rfl := cursor_eq_of_polling hp hc
  exact locOk_of_polling rfl (polling_advance hp h0) hnext

/-- A status value leads a polling engine to a label of its loop, or to its exit. -/
theorem locOk_classifyStep {s t : State} {m : Message} {c : Cursor} {w : Word} (hp : Polling s m c)
    (h : EngineStep s t (.classify w)) : LocOk t := by
  obtain ⟨m', c', hm, hc, h⟩ := h
  obtain rfl := message_eq_of_engineHas hp.1 hm
  obtain rfl := cursor_eq_of_polling hp hc
  obtain ⟨res, -, rfl⟩ | ⟨-, rfl⟩ | ⟨-, rfl⟩ | ⟨-, rfl⟩ | ⟨-, rfl⟩ := h
  · exact locOk_finish hp res
  · rw [doneStep_eq]
    split
    case isTrue hread => exact ⟨m', c', hp, hread⟩
    case isFalse => exact locOk_finish hp _
  · exact ⟨m', c', hp, trivial⟩
  · exact ⟨m', c', hp, trivial⟩
  · exact ⟨m', c', hp, trivial⟩

/-- What a label holds is what the next label needs. -/
theorem locOk_of_labelStep {s t : State} {l : Loc} (hl : s.loc = l) (hok : LocOk (s.goto l))
    (hseq : SeqOk s) (h : LabelStep s t l) : LocOk t := by
  match l, hl, hok, h with
  | .idle, hl, hok, h =>
    obtain rfl := h
    rwa [← hl] at hok
  | .bc (.initClkt v), _, hok, h | .bc .probeClkt, _, hok, h
  | .eng (.entry .clearControl), _, hok, h | .eng (.entry .clearStatus), _, hok, h
  | .eng .pollRead, _, hok, h | .eng (.drain .pop), _, hok, h | .eng (.doneDrain .pop), _, hok, h
  | .eng (.exit .clearControl), _, hok, h => obtain rfl := h; exact hok
  | .bc (.initDiv v), _, _, h | .bc (.setSpeedDiv v), _, _, h =>
    obtain rfl := h; exact locOk_commandReturn _ _
  | .bc .probeDiv, _, _, h => obtain ⟨res, -, rfl⟩ := h; exact locOk_commandReturn _ _
  | .seq, _, hok, h =>
    obtain ⟨⟨hrest, -, -⟩, hr, hi⟩ := hok
    obtain ⟨m, hm, rfl⟩ | ⟨-, rfl⟩ := h
    · exact ⟨hrest, hr, m, rfl, hseq m (List.mem_of_getElem? hm), hi, .inl ⟨rfl, hm⟩⟩
    · exact locOk_commandReturn _ _
  | .eng .validate, _, hok, h =>
    obtain ⟨hrest, hr, m, hhas⟩ := hok
    obtain ⟨m', hm, ⟨ha, rfl⟩ | ⟨-, hret⟩⟩ := h
    · obtain rfl := message_eq_of_engineHas hhas hm
      exact ⟨hrest, hr, m', hhas, ha⟩
    · exact locOk_engineReturn (s := s) hhas hret
  | .eng (.entry .address), _, hok, h | .eng (.entry .dataLength), _, hok, h
  | .eng (.entry .start), _, hok, h => obtain ⟨m, -, rfl⟩ := h; exact hok
  | .eng (.entry .clock), _, hok, h =>
    obtain ⟨-, hr, m, hhas, ha⟩ := hok
    obtain ⟨m', hm, rfl⟩ := h
    obtain rfl := message_eq_of_engineHas hhas hm
    exact ⟨m', _, ⟨hhas, ha, ⟨rfl, Nat.zero_add _⟩, rfl, rfl, hr⟩, trivial⟩
  | .eng (.classify w), _, hok, h =>
    obtain ⟨m, c, hp, -⟩ := hok
    exact locOk_classifyStep (s := s) hp h
  | .eng (.fill .sample), _, hok, h | .eng (.drain .sample), _, hok, h =>
    obtain ⟨m, c, hp, -⟩ := hok
    exact locOk_sampleStep (s := s) hp h id trivial
  | .eng (.fill .load), _, hok, h => obtain ⟨m, c, -, -, -, rfl⟩ := h; exact hok
  | .eng (.fill (.push b)), _, hok, h =>
    obtain ⟨m, c, hp, h0⟩ := hok
    obtain ⟨c', hc, rfl⟩ := h
    obtain rfl := cursor_eq_of_polling hp hc
    exact ⟨m, c'.advance, polling_advance hp h0, trivial⟩
  | .eng (.drain (.store b)), _, hok, h =>
    obtain ⟨m, c, hp, h0⟩ := hok
    exact locOk_storeStep (s := s) hp h0 h trivial
  | .eng (.doneDrain .sample), _, hok, h =>
    obtain ⟨m, c, hp, hread⟩ := hok
    exact locOk_sampleStep (s := s) hp h (fun h0 => ⟨hread, h0⟩) hread
  | .eng (.doneDrain (.store b)), _, hok, h =>
    obtain ⟨m, c, hp, hread, h0⟩ := hok
    exact locOk_storeStep (s := s) hp h0 h hread
  | .eng .doneRecheck, _, hok, h =>
    obtain ⟨m, c, hp, -⟩ := hok
    obtain ⟨c', -, rfl⟩ := h
    exact locOk_finish (s := s.regRead .s (s.answer .s)) hp _
  | .eng .deadline, _, hok, h =>
    obtain ⟨m, c, hp, -⟩ := hok
    obtain ⟨d, -, ⟨-, rfl⟩ | ⟨-, rfl⟩⟩ := h
    · exact locOk_finish (s := s.readClock) hp _
    · exact ⟨m, c, hp, trivial⟩
  | .eng (.exit .clearStatus), _, hok, h =>
    obtain ⟨-, -, -, m, c, hhas, -⟩ := hok
    obtain ⟨res, -, hret⟩ := h
    exact locOk_engineReturn (s := s.regWrite .s 0x00000302) hhas hret

/-! ### The handle and the message list -/

/-- The handle after a divider write records a preset (10_state.md R21, 30_encoding.md R94). -/
theorem handleOk_recordSpeed (s : State) (v : Nat) (b : Bool) : HandleOk (s.recordSpeed v b).handle := by
  refine ⟨.inr ?_, fun _ => rfl⟩
  by_cases hv : v = 400000
  · exact .inl ⟨by simp [divider_eq, hv], by simp [nominal_eq, hv]⟩
  · exact .inr ⟨by simp [divider_eq, hv], by simp [nominal_eq, hv]⟩

/-- A step that records no speed: the handle stays, and the Sequencer keeps its list or its command
returns. -/
def KeepsHandle (s t : State) : Prop := t.handle = s.handle ∧ (t.seq = s.seq ∨ t.seq = [])

theorem engineReturn_keepsHandle {s t : State} {res : Result} (h : s.engineReturn res = .next t) :
    KeepsHandle s t := by
  obtain ⟨-, rfl⟩ | ⟨-, -, rfl⟩ | ⟨-, -, rfl⟩ := engineReturn_inv h
  · exact ⟨rfl, .inl rfl⟩
  · exact ⟨rfl, .inl rfl⟩
  · exact ⟨rfl, .inr rfl⟩

/-- A step records no speed, or is one of the three divider writes and records the speed written; only INIT
and a probe's re-init set `initialized`. -/
theorem labelStep_handle {s t : State} {l : Loc} (h : LabelStep s t l) :
    KeepsHandle s t ∨ ∃ v b, t.handle = (s.recordSpeed v b).handle ∧ t.seq = [] ∧
      labelEvent s l = some (.write .div (divider v)) ∧
      (b = s.handle.initialized ∨ l = .bc (.initDiv v) ∨ l = .bc .probeDiv) := by
  match l, h with
  | .idle, h | .bc (.initClkt _), h | .bc .probeClkt, h | .eng (.entry .clearControl), h
  | .eng (.entry .clearStatus), h | .eng .pollRead, h | .eng (.drain .pop), h
  | .eng (.doneDrain .pop), h | .eng (.exit .clearControl), h =>
    obtain rfl := h; exact .inl ⟨rfl, .inl rfl⟩
  | .bc (.initDiv v), h => obtain rfl := h; exact .inr ⟨v, true, rfl, rfl, rfl, .inr (.inl rfl)⟩
  | .bc (.setSpeedDiv v), h => obtain rfl := h; exact .inr ⟨v, _, rfl, rfl, rfl, .inl rfl⟩
  | .bc .probeDiv, h =>
    obtain ⟨res, -, rfl⟩ := h
    exact .inr ⟨Config.speedStd, true, rfl, rfl, rfl, .inr (.inr rfl)⟩
  | .seq, h =>
    obtain ⟨m, -, rfl⟩ | ⟨-, rfl⟩ := h
    · exact .inl ⟨rfl, .inl rfl⟩
    · exact .inl ⟨rfl, .inr rfl⟩
  | .eng .validate, h =>
    obtain ⟨m, -, ⟨-, rfl⟩ | ⟨-, hret⟩⟩ := h
    · exact .inl ⟨rfl, .inl rfl⟩
    · exact .inl (engineReturn_keepsHandle hret)
  | .eng (.entry .address), h | .eng (.entry .dataLength), h | .eng (.entry .start), h
  | .eng (.entry .clock), h | .eng (.fill (.push _)), h | .eng .doneRecheck, h =>
    obtain ⟨x, -, rfl⟩ := h; exact .inl ⟨rfl, .inl rfl⟩
  | .eng (.classify _), h =>
    obtain ⟨m, c, -, -, h⟩ := h
    obtain ⟨res, -, rfl⟩ | ⟨-, rfl⟩ | ⟨-, rfl⟩ | ⟨-, rfl⟩ | ⟨-, rfl⟩ := h
    · exact .inl ⟨rfl, .inl rfl⟩
    · rw [doneStep_eq]; split <;> exact .inl ⟨rfl, .inl rfl⟩
    all_goals exact .inl ⟨rfl, .inl rfl⟩
  | .eng (.fill .sample), h | .eng (.drain .sample), h | .eng (.doneDrain .sample), h =>
    obtain ⟨c, -, ⟨-, rfl⟩ | ⟨-, rfl⟩⟩ := h <;> exact .inl ⟨rfl, .inl rfl⟩
  | .eng (.fill .load), h | .eng (.drain (.store _)), h | .eng (.doneDrain (.store _)), h =>
    obtain ⟨m, c, -, -, -, rfl⟩ := h; exact .inl ⟨rfl, .inl rfl⟩
  | .eng .deadline, h => obtain ⟨d, -, ⟨-, rfl⟩ | ⟨-, rfl⟩⟩ := h <;> exact .inl ⟨rfl, .inl rfl⟩
  | .eng (.exit .clearStatus), h =>
    obtain ⟨res, -, hret⟩ := h
    exact .inl (engineReturn_keepsHandle (s := s.regWrite .s 0x00000302) hret)

/-! ### Legal events -/

/-- The event of a label is legal where the entry's operand words are. -/
theorem labelEvent_legal {s : State} {l : Loc} {e : Event} (hw : EntryWordOk s l)
    (he : labelEvent s l = some e) : legalEvent e = true := by
  have divider_legal : ∀ v, legalEvent (.write .div (divider v)) = true := by
    intro v
    obtain ⟨i, hi, -⟩ := exec_divider v s
    exact Option.isSome_iff_exists.2 ⟨i, hi⟩
  have readS_legal : ∀ v, legalEvent (.read .s v) = true :=
    fun v => Option.isSome_iff_exists.2 ⟨_, decodeAccess_readS v⟩
  have readFifo_legal : ∀ v, legalEvent (.read .fifo v) = true :=
    fun v => Option.isSome_iff_exists.2 ⟨_, decodeAccess_readFifo v⟩
  match l, hw, he with
  | .bc (.initClkt _), _, he | .bc .probeClkt, _, he | .bc .probeDiv, _, he
  | .eng (.entry .clearControl), _, he | .eng (.entry .clearStatus), _, he
  | .eng (.exit .clearControl), _, he | .eng (.exit .clearStatus), _, he => cases he; decide
  | .bc (.initDiv v), _, he | .bc (.setSpeedDiv v), _, he => cases he; exact divider_legal v
  | .eng (.entry .address), hw, he | .eng (.entry .dataLength), hw, he =>
    obtain ⟨m, hm, rfl⟩ := Option.map_eq_some_iff.1 he
    exact hw m hm
  | .eng (.entry .start), _, he =>
    obtain ⟨m, -, rfl⟩ := Option.map_eq_some_iff.1 he
    cases m.direction <;> decide
  | .eng (.entry .clock), _, he | .eng .deadline, _, he => cases he; rfl
  | .eng .pollRead, _, he | .eng .doneRecheck, _, he => cases he; exact readS_legal _
  | .eng (.fill .sample), _, he | .eng (.drain .sample), _, he | .eng (.doneDrain .sample), _, he =>
    obtain ⟨-, he⟩ := Option.ite_none_right_eq_some.1 he
    cases he; exact readS_legal _
  | .eng (.fill .load), _, he =>
    obtain ⟨m, -, he⟩ := Option.bind_eq_some_iff.1 he
    obtain ⟨c, -, rfl⟩ := Option.map_eq_some_iff.1 he
    rfl
  | .eng (.fill (.push b)), _, he =>
    cases he; exact Option.isSome_iff_exists.2 ⟨_, decodeAccess_byte b⟩
  | .eng (.drain .pop), _, he | .eng (.doneDrain .pop), _, he => cases he; exact readFifo_legal _
  | .eng (.drain (.store _)), _, he | .eng (.doneDrain (.store _)), _, he =>
    obtain ⟨c, -, rfl⟩ := Option.map_eq_some_iff.1 he
    rfl

/-! ### Every step keeps the good states -/

theorem inv_blockStep {s t : State} (hinv : Inv s) (h : blockStep s = .next t) : Inv t := by
  have hlabel := blockStep_inv h
  refine ⟨?_, locOk_of_labelStep rfl hinv.loc hinv.seq hlabel, ?_, ?_, ?_, ?_⟩
  · obtain hmem | ⟨m, c, b, -, -, -, -, hmem⟩ := blockStep_mem h
    · exact hmem ▸ hinv.mem
    · exact hmem ▸ Memory.wf_write hinv.mem _ b
  · obtain ⟨hkept, -⟩ | ⟨v, b, hset, -⟩ := labelStep_handle hlabel
    · exact hkept ▸ hinv.handle
    · exact hset ▸ handleOk_recordSpeed s v b
  · intro e he
    rw [labelStep_events hlabel, List.mem_append] at he
    obtain hold | hnew := he
    · exact hinv.trace e hold
    · exact labelEvent_legal (entryWordOk_of_blockStep h) (Option.mem_toList.1 hnew)
  · intro m hm
    obtain ⟨-, hseq | hseq⟩ | ⟨v, b, -, hseq, -⟩ := labelStep_handle hlabel
    · exact hinv.seq m (hseq ▸ hm)
    · simp [hseq] at hm
    · simp [hseq] at hm
  · intro ht
    have hbase : t.handle.base = s.handle.base := by
      obtain ⟨hkept, -⟩ | ⟨v, b, hset, -⟩ := labelStep_handle hlabel
      · rw [hkept]
      · rw [hset]; rfl
    rw [hbase]
    refine hinv.align fun hs => ht ?_
    rw [blockStep_idle hs] at h
    cases h
    exact hs

theorem inv_hostStep {s t : State} (hinv : Inv s) (h : HostStep s t) : Inv t := by
  obtain ⟨reason, rfl⟩ | ⟨hl, hbase, hstart⟩ | ⟨hl, a, b, rfl⟩ := h
  · exact ⟨hinv.mem, hinv.loc, hinv.handle, hinv.trace, hinv.seq, hinv.align⟩
  · have hidle : LocOk (s.goto .idle) := hl ▸ hinv.loc
    obtain ⟨hfree, hseq, hr⟩ := hidle
    obtain ⟨v, rfl⟩ | ⟨v, rfl⟩ | ⟨a, hi, rfl⟩ | ⟨ms, hi, hms, rfl⟩ := hstart
    · exact ⟨hinv.mem, ⟨hfree, hseq, hr⟩, hinv.handle, hinv.trace, hinv.seq, fun _ => hbase⟩
    · exact ⟨hinv.mem, ⟨hfree, hseq, hr⟩, hinv.handle, hinv.trace, hinv.seq, fun _ => hbase⟩
    · obtain ⟨hrest, -, -⟩ := hfree
      exact ⟨hinv.mem, ⟨hrest, hr, _, rfl, rfl, hi, .inr ⟨rfl, hseq, rfl⟩⟩, hinv.handle, hinv.trace,
        hinv.seq, fun _ => hbase⟩
    · exact ⟨hinv.mem, ⟨hfree, hr, hi⟩, hinv.handle, hinv.trace, List.all_eq_true.1 hms,
        fun _ => hbase⟩
  · exact ⟨Memory.wf_write hinv.mem a b, hinv.loc, hinv.handle, hinv.trace, hinv.seq, hinv.align⟩

/-- The host's script is no part of a good state. -/
theorem inv_hostDone {s : State} (hinv : Inv s) (rest : List HostAct) : Inv (s.hostDone rest) :=
  ⟨hinv.mem, hinv.loc, hinv.handle, hinv.trace, hinv.seq, hinv.align⟩

/-- Settles O43: a block step keeps the good states label by label, the host's step in each of its cases. -/
theorem everyStepKeepsTheInvariant : Obligations.EveryStepKeepsTheInvariant := by
  intro s t hinv h
  obtain ⟨rest, hb | hs⟩ := step_inv h
  · exact inv_blockStep (inv_hostDone hinv rest) hb
  · exact inv_hostStep (inv_hostDone hinv rest) hs

end Sys2Proof.Machine
end

section
/-! PROOFS of the family other, consequences of the good states: no stop (20_memory.md R60), the phase
(10_state.md R22), the cursor (R23), the speed fields (R29), the control word (60_exceptions.md R250, R261),
the pump's fresh status value (70_reset_and_hazards.md R289). -/

namespace Sys2Proof.Machine

/-! ### Good states never stop -/

/-- A message and a byte still to move put the cursor inside the buffer (20_memory.md R53). -/
theorem atBufferByte_of_polling {s : State} {m : Message} {c : Cursor} (hp : Polling s m c)
    (h0 : c.remaining ≠ 0) : AtBufferByte s := by
  obtain ⟨⟨hm, -⟩, -, ⟨hc, hsum⟩, -⟩ := hp
  exact ⟨m, c, hm, hc, by omega⟩

theorem caller_isSome_of_engineHas {s : State} {m : Message} (h : EngineHas s m) :
    s.caller.isSome = true := by
  obtain ⟨-, -, -, ⟨hk, -⟩ | ⟨hk, -⟩⟩ := h <;> rw [hk] <;> rfl

theorem m_isSome_of_engineHas {s : State} {m : Message} (h : EngineHas s m) : s.m.isSome = true := by
  obtain ⟨hm, -⟩ := h
  rw [hm]; rfl

theorem cur_isSome_of_polling {s : State} {m : Message} {c : Cursor} (hp : Polling s m c) :
    s.cur.isSome = true := by
  obtain ⟨-, -, ⟨hc, -⟩, -⟩ := hp
  rw [hc]; rfl

theorem entryWordOk_of_locOk {s : State} {l : Loc} (hok : LocOk (s.goto l)) : EntryWordOk s l := by
  unfold EntryWordOk
  split
  · intro m' hm
    obtain ⟨-, -, m, hhas, ha⟩ := hok
    obtain rfl := message_eq_of_engineHas hhas hm
    rw [decodeAccess_address m'.chipAddress (of_decide_eq_true ha)]; rfl
  · intro m' hm
    obtain ⟨-, -, m, hhas, -⟩ := hok
    obtain rfl := message_eq_of_engineHas hhas hm
    obtain ⟨-, hwf, -⟩ := hhas
    rw [decodeAccess_length m'.length ((messageWf_iff m').1 hwf).2]; rfl
  · trivial

/-- What holds at a label is what its procedure needs. -/
theorem labelReady_of_locOk {s : State} : ∀ {l : Loc}, LocOk (s.goto l) → LabelReady s l
  | .idle, _ | .bc (.initClkt _), _ | .bc (.initDiv _), _ | .bc (.setSpeedDiv _), _ | .bc .probeClkt, _
  | .seq, _ | .eng (.entry .clearControl), _ | .eng (.entry .clearStatus), _ | .eng .pollRead, _
  | .eng (.drain .pop), _ | .eng (.doneDrain .pop), _ | .eng (.exit .clearControl), _ => trivial
  | .bc .probeDiv, ⟨_, _, hr, _⟩ => hr
  | .eng .validate, ⟨_, _, m, hhas⟩ => ⟨m, hhas.1, .inr (caller_isSome_of_engineHas hhas)⟩
  | .eng (.entry .address), ⟨_, _, _, hhas, _⟩ | .eng (.entry .dataLength), ⟨_, _, _, hhas, _⟩
  | .eng (.entry .start), ⟨_, _, _, hhas, _⟩ | .eng (.entry .clock), ⟨_, _, _, hhas, _⟩ =>
    m_isSome_of_engineHas hhas
  | .eng (.classify _), ⟨_, _, hp, _⟩ => ⟨m_isSome_of_engineHas hp.1, cur_isSome_of_polling hp⟩
  | .eng (.fill .load), ⟨_, _, hp, h0⟩ | .eng (.drain (.store _)), ⟨_, _, hp, h0⟩
  | .eng (.doneDrain (.store _)), ⟨_, _, hp, _, h0⟩ => atBufferByte_of_polling hp h0
  | .eng (.fill .sample), ⟨_, _, hp, _⟩ | .eng (.fill (.push _)), ⟨_, _, hp, _⟩
  | .eng (.drain .sample), ⟨_, _, hp, _⟩ | .eng (.doneDrain .sample), ⟨_, _, hp, _⟩
  | .eng .doneRecheck, ⟨_, _, hp, _⟩ => cur_isSome_of_polling hp
  | .eng .deadline, ⟨_, _, ⟨_, _, _, hd, _⟩, _⟩ => hd
  | .eng (.exit .clearStatus), ⟨_, hr, _, _, _, hhas, _⟩ => ⟨hr, caller_isSome_of_engineHas hhas⟩

/-- Settles O44: at every label a good state has what the label's procedure needs, and a legal entry word. -/
theorem goodStatesNeverStop : Obligations.GoodStatesNeverStop :=
  fun s hinv => exists_step_of_ready (entryWordOk_of_locOk (s := s) hinv.loc)
    (labelReady_of_locOk (s := s) hinv.loc)

/-! ### The phase -/

theorem engineReturn_phase {s t : State} {res : Result} (h : s.engineReturn res = .next t) :
    t.phase = .idle := by
  obtain ⟨-, rfl⟩ | ⟨-, -, rfl⟩ | ⟨-, -, rfl⟩ := engineReturn_inv h <;> rfl

/-- The phase stays or takes one step of its cycle (10_state.md R22). -/
def PhaseMoves (a b : Phase) : Prop :=
  b = a ∨ (a = .idle ∧ b = .activePoll) ∨ (a = .activePoll ∧ b = .complete) ∨ (a = .complete ∧ b = .idle)

theorem phaseMoves_finish {s : State} {m : Message} {c : Cursor} (hp : Polling s m c) (res : Result) :
    PhaseMoves s.phase (s.finish res).phase := by
  obtain ⟨-, -, -, -, hphase, -⟩ := hp
  exact .inr (.inr (.inl ⟨hphase, rfl⟩))

theorem phaseMoves_of_labelStep {s t : State} {l : Loc} (hok : LocOk (s.goto l)) (h : LabelStep s t l) :
    PhaseMoves s.phase t.phase := by
  match l, hok, h with
  | .idle, _, h | .bc (.initClkt _), _, h | .bc .probeClkt, _, h | .eng (.entry .clearControl), _, h
  | .eng (.entry .clearStatus), _, h | .eng .pollRead, _, h | .eng (.drain .pop), _, h
  | .eng (.doneDrain .pop), _, h | .eng (.exit .clearControl), _, h => obtain rfl := h; exact .inl rfl
  | .bc (.initDiv _), ⟨⟨⟨hphase, _⟩, _⟩, _⟩, h | .bc (.setSpeedDiv _), ⟨⟨⟨hphase, _⟩, _⟩, _⟩, h =>
    obtain rfl := h; exact .inl hphase.symm
  | .bc .probeDiv, ⟨⟨⟨hphase, _⟩, _⟩, _⟩, h => obtain ⟨res, -, rfl⟩ := h; exact .inl hphase.symm
  | .seq, ⟨⟨⟨hphase, _⟩, _⟩, _⟩, h =>
    obtain ⟨m, -, rfl⟩ | ⟨-, rfl⟩ := h
    · exact .inl rfl
    · exact .inl hphase.symm
  | .eng .validate, ⟨⟨hphase, _⟩, _⟩, h =>
    obtain ⟨m, -, ⟨-, rfl⟩ | ⟨-, hret⟩⟩ := h
    · exact .inl rfl
    · exact .inl ((engineReturn_phase hret).trans hphase.symm)
  | .eng (.entry .address), _, h | .eng (.entry .dataLength), _, h | .eng (.entry .start), _, h
  | .eng (.fill (.push _)), _, h => obtain ⟨x, -, rfl⟩ := h; exact .inl rfl
  | .eng (.entry .clock), ⟨⟨hphase, _⟩, _⟩, h =>
    obtain ⟨m, -, rfl⟩ := h; exact .inr (.inl ⟨hphase, rfl⟩)
  | .eng (.classify _), ⟨_, _, hp, _⟩, h =>
    obtain ⟨m, c, -, -, h⟩ := h
    obtain ⟨res, -, rfl⟩ | ⟨-, rfl⟩ | ⟨-, rfl⟩ | ⟨-, rfl⟩ | ⟨-, rfl⟩ := h
    · exact phaseMoves_finish (s := s) hp res
    · rw [doneStep_eq]
      split
      · exact .inl rfl
      · exact phaseMoves_finish (s := s) hp _
    all_goals exact .inl rfl
  | .eng (.fill .sample), _, h | .eng (.drain .sample), _, h | .eng (.doneDrain .sample), _, h =>
    obtain ⟨c, -, ⟨-, rfl⟩ | ⟨-, rfl⟩⟩ := h <;> exact .inl rfl
  | .eng (.fill .load), _, h | .eng (.drain (.store _)), _, h | .eng (.doneDrain (.store _)), _, h =>
    obtain ⟨m, c, -, -, -, rfl⟩ := h; exact .inl rfl
  | .eng .doneRecheck, ⟨_, _, hp, _⟩, h =>
    obtain ⟨c, -, rfl⟩ := h; exact phaseMoves_finish (s := s.regRead .s (s.answer .s)) hp _
  | .eng .deadline, ⟨_, _, hp, _⟩, h =>
    obtain ⟨d, -, ⟨-, rfl⟩ | ⟨-, rfl⟩⟩ := h
    · exact phaseMoves_finish (s := s.readClock) hp _
    · exact .inl rfl
  | .eng (.exit .clearStatus), ⟨hphase, _⟩, h =>
    obtain ⟨res, -, hret⟩ := h
    exact .inr (.inr (.inr ⟨hphase, engineReturn_phase hret⟩))

/-- Settles O52: the phase is written at the entry's end, at `finish` and at the engine's return, where it is
IDLE, ACTIVE_POLL and COMPLETE. -/
theorem phaseKeepsItsCycle : Obligations.PhaseKeepsItsCycle := by
  intro s t hinv h
  obtain ⟨rest, hb | hs⟩ := step_inv h
  · exact phaseMoves_of_labelStep (s := s.hostDone rest) hinv.loc (blockStep_inv hb)
  · exact .inl (hostStep_frame hs).phase

/-! ### The speed fields -/

/-- Settles O51: a divider write records its divider; INIT's alone can set `initialized`, since a probe's
re-init finds it set. -/
theorem onlyDividerWritesRecordASpeed : Obligations.OnlyDividerWritesRecordASpeed := by
  constructor
  · intro s t h hchange
    obtain ⟨rest, hb | hs⟩ := step_inv h
    · have hlabel := blockStep_inv hb
      obtain ⟨hkept, -⟩ | ⟨v, b, hset, -, hev, -⟩ := labelStep_handle hlabel
      · simp [hkept] at hchange
      · refine ⟨divider v, ?_, by rw [hset]; rfl⟩
        rw [labelStep_events hlabel, hev]; rfl
    · simp [(hostStep_frame hs).handle] at hchange
  · intro s t hinv h hbefore hafter
    obtain ⟨rest, hb | hs⟩ := step_inv h
    · obtain ⟨hkept, -⟩ | ⟨v, b, hset, -, -, hwhy⟩ := labelStep_handle (blockStep_inv hb)
      · rw [hkept] at hafter
        cases hbefore.symm.trans hafter
      · rw [hset] at hafter
        obtain hsame | hinit | hprobe := hwhy
        · cases hbefore.symm.trans (hsame.symm.trans hafter)
        · exact ⟨v, hinit⟩
        · have hok : LocOk (s.goto (.bc .probeDiv)) := hprobe ▸ hinv.loc
          obtain ⟨-, -, -, hi⟩ := hok
          cases hbefore.symm.trans hi
    · rw [(hostStep_frame hs).handle] at hafter
      cases hbefore.symm.trans hafter

/-! ### The control word -/

theorem controlOff_clear : controlOff 0x00000030 := by
  unfold controlOff; decide

theorem engineReturn_port {s t : State} {res : Result} (h : s.engineReturn res = .next t) :
    t.port = s.port := (engineReturn_frame h).port

theorem cleanOk_sampleStep {s t : State} {flag : Word → Bool} {move done : Label}
    (h : SampleStep s t flag move done) (hmove : betweenStartAndExit (.eng move) = true)
    (hdone : betweenStartAndExit (.eng done) = true) : CleanOk t := by
  intro hout
  obtain ⟨c, -, ⟨-, rfl⟩ | ⟨-, rfl⟩⟩ := h
  · cases hdone.symm.trans hout
  · rw [State.goto_loc] at hout
    split at hout
    · cases hmove.symm.trans hout
    · cases hdone.symm.trans hout

/-- A label between the start write and the first exit write needs nothing; the two labels that lead out of
there write the clearing word, and no other label writes C but the start. -/
theorem cleanOk_of_labelStep {s t : State} {l : Loc} (hl : s.loc = l) (hclean : CleanOk s)
    (h : LabelStep s t l) : CleanOk t := by
  have hoff : betweenStartAndExit l = false → controlOff s.port.c := hl ▸ hclean
  match l, h, hoff with
  | .idle, h, hoff => obtain rfl := h; exact hclean
  | .bc (.initClkt _), h, hoff | .bc (.initDiv _), h, hoff | .bc (.setSpeedDiv _), h, hoff
  | .bc .probeClkt, h, hoff | .eng (.entry .clearStatus), h, hoff => obtain rfl := h; exact fun _ => hoff rfl
  | .bc .probeDiv, h, hoff | .eng (.entry .address), h, hoff | .eng (.entry .dataLength), h, hoff =>
    obtain ⟨x, -, rfl⟩ := h; exact fun _ => hoff rfl
  | .seq, h, hoff => obtain ⟨m, -, rfl⟩ | ⟨-, rfl⟩ := h <;> exact fun _ => hoff rfl
  | .eng .validate, h, hoff =>
    obtain ⟨m, -, ⟨-, rfl⟩ | ⟨-, hret⟩⟩ := h
    · exact fun _ => hoff rfl
    · exact fun _ => engineReturn_port hret ▸ hoff rfl
  | .eng (.entry .clearControl), h, _ | .eng (.exit .clearControl), h, _ =>
    obtain rfl := h; exact fun _ => controlOff_clear
  | .eng (.entry .start), h, _ | .eng (.entry .clock), h, _ | .eng (.fill (.push _)), h, _
  | .eng .doneRecheck, h, _ => obtain ⟨x, -, rfl⟩ := h; exact nofun
  | .eng .pollRead, h, _ | .eng (.drain .pop), h, _ | .eng (.doneDrain .pop), h, _ =>
    obtain rfl := h; exact nofun
  | .eng (.classify _), h, _ =>
    obtain ⟨m, c, -, -, h⟩ := h
    obtain ⟨res, -, rfl⟩ | ⟨-, rfl⟩ | ⟨-, rfl⟩ | ⟨-, rfl⟩ | ⟨-, rfl⟩ := h
    · exact nofun
    · rw [doneStep_eq]; split <;> exact nofun
    all_goals exact nofun
  | .eng (.fill .sample), h, _ | .eng (.drain .sample), h, _ | .eng (.doneDrain .sample), h, _ =>
    exact cleanOk_sampleStep h rfl rfl
  | .eng (.fill .load), h, _ | .eng (.drain (.store _)), h, _ | .eng (.doneDrain (.store _)), h, _ =>
    obtain ⟨m, c, -, -, -, rfl⟩ := h; exact nofun
  | .eng .deadline, h, _ => obtain ⟨d, -, ⟨-, rfl⟩ | ⟨-, rfl⟩⟩ := h <;> exact nofun
  | .eng (.exit .clearStatus), h, hoff =>
    obtain ⟨res, -, hret⟩ := h
    exact fun _ => engineReturn_port hret ▸ hoff rfl

theorem cleanOk_hostStep {s t : State} (hclean : CleanOk s) (h : HostStep s t) : CleanOk t := by
  obtain ⟨reason, rfl⟩ | ⟨hl, -, hstart⟩ | ⟨-, a, b, rfl⟩ := h
  · exact hclean
  · have hoff : controlOff s.port.c := hclean (by rw [hl]; rfl)
    obtain ⟨v, rfl⟩ | ⟨v, rfl⟩ | ⟨a, -, rfl⟩ | ⟨ms, -, -, rfl⟩ := hstart
    all_goals exact fun _ => hoff
  · exact hclean

/-- Settles O45: a block step keeps the control word off label by label, and the host writes no register. -/
theorem controllerIsLeftDisabled : Obligations.ControllerIsLeftDisabled := by
  intro s t hclean h
  obtain ⟨rest, hb | hs⟩ := step_inv h
  · exact cleanOk_of_labelStep (s := s.hostDone rest) rfl hclean (blockStep_inv hb)
  · exact cleanOk_hostStep (s := s.hostDone rest) hclean hs

/-! ### The fresh status value -/

theorem lastAccess_of_read {s : State} {r : Reg} {v : Word} : lastAccess (s.regRead r v) = some (.read r v) := by
  simp [lastAccess, State.trace, isAccess]

theorem lastAccess_bufRead (s : State) (m : Message) (i : Nat) :
    lastAccess (s.bufRead m i) = lastAccess s := by
  simp [lastAccess, State.trace, isAccess]

/-- The points of the pump that need a fresh status value; `flag` is what it showed. -/
def needsSample : Loc → Option (Word → Bool)
  | .eng (.fill .load) => some statusTxd
  | .eng (.fill (.push _)) => some statusTxd
  | .eng (.drain .pop) => some statusRxd
  | .eng (.doneDrain .pop) => some statusRxd
  | _ => none

theorem sampleOk_iff (s : State) : SampleOk s ↔ ∀ flag, needsSample s.loc = some flag → FreshSample s flag := by
  unfold SampleOk needsSample
  split <;> simp [*]

theorem sampleOk_of_needsNone {s : State} (h : needsSample s.loc = none) : SampleOk s :=
  (sampleOk_iff s).2 fun _ hf => by cases h.symm.trans hf

theorem sampleOk_engineReturn {s t : State} {res : Result} (h : s.engineReturn res = .next t) :
    SampleOk t := by
  obtain ⟨-, rfl⟩ | ⟨-, -, rfl⟩ | ⟨-, -, rfl⟩ := engineReturn_inv h <;> exact trivial

/-- The pump's status read is the fresh sample of the point it leads to. -/
theorem sampleOk_sampleStep {s t : State} {flag : Word → Bool} {move done : Label}
    (h : SampleStep s t flag move done) (hmove : needsSample (.eng move) = some flag)
    (hdone : needsSample (.eng done) = none) : SampleOk t := by
  obtain ⟨c, hc, ⟨-, rfl⟩ | ⟨h0, rfl⟩⟩ := h
  · exact sampleOk_of_needsNone hdone
  · cases hf : flag (s.answer .s) with
    | false => exact sampleOk_of_needsNone hdone
    | true =>
      refine (sampleOk_iff _).2 fun flag' hf' => ?_
      obtain rfl := Option.some.inj (hmove.symm.trans hf')
      exact ⟨⟨_, lastAccess_of_read, hf⟩, c, hc, h0⟩

/-- A label that needs a fresh sample is reached by the status read that shows it, or, the FIFO write, from
the BufRead after it. -/
theorem sampleOk_of_labelStep {s t : State} {l : Loc} (hl : s.loc = l) (hok : SampleOk s)
    (h : LabelStep s t l) : SampleOk t := by
  match l, hl, h with
  | .idle, _, h => obtain rfl := h; exact hok
  | .bc (.initClkt _), _, h | .bc (.initDiv _), _, h | .bc (.setSpeedDiv _), _, h | .bc .probeClkt, _, h
  | .eng (.entry .clearControl), _, h | .eng (.entry .clearStatus), _, h | .eng .pollRead, _, h
  | .eng (.drain .pop), _, h | .eng (.doneDrain .pop), _, h | .eng (.exit .clearControl), _, h =>
    obtain rfl := h; exact trivial
  | .bc .probeDiv, _, h | .eng (.entry .address), _, h | .eng (.entry .dataLength), _, h
  | .eng (.entry .start), _, h | .eng (.entry .clock), _, h | .eng (.fill (.push _)), _, h
  | .eng .doneRecheck, _, h => obtain ⟨x, -, rfl⟩ := h; exact trivial
  | .seq, _, h => obtain ⟨m, -, rfl⟩ | ⟨-, rfl⟩ := h <;> exact trivial
  | .eng .validate, _, h =>
    obtain ⟨m, -, ⟨-, rfl⟩ | ⟨-, hret⟩⟩ := h
    · exact trivial
    · exact sampleOk_engineReturn hret
  | .eng (.classify _), _, h =>
    obtain ⟨m, c, -, -, h⟩ := h
    obtain ⟨res, -, rfl⟩ | ⟨-, rfl⟩ | ⟨-, rfl⟩ | ⟨-, rfl⟩ | ⟨-, rfl⟩ := h
    · exact trivial
    · rw [doneStep_eq]; split <;> exact trivial
    all_goals exact trivial
  | .eng (.fill .sample), _, h | .eng (.drain .sample), _, h | .eng (.doneDrain .sample), _, h =>
    exact sampleOk_sampleStep h rfl rfl
  | .eng (.fill .load), hl, h =>
    obtain ⟨m, c, -, -, -, rfl⟩ := h
    obtain ⟨⟨w, hlast, hw⟩, hcur⟩ := (sampleOk_iff s).1 hok statusTxd (by rw [hl]; rfl)
    exact ⟨⟨w, (lastAccess_bufRead s m c.position).trans hlast, hw⟩, hcur⟩
  | .eng (.drain (.store _)), _, h | .eng (.doneDrain (.store _)), _, h =>
    obtain ⟨m, c, -, -, -, rfl⟩ := h; exact trivial
  | .eng .deadline, _, h => obtain ⟨d, -, ⟨-, rfl⟩ | ⟨-, rfl⟩⟩ := h <;> exact trivial
  | .eng (.exit .clearStatus), _, h =>
    obtain ⟨res, -, hret⟩ := h
    exact sampleOk_engineReturn hret

theorem sampleOk_hostStep {s t : State} (hok : SampleOk s) (h : HostStep s t) : SampleOk t := by
  obtain ⟨reason, rfl⟩ | ⟨-, -, ⟨v, rfl⟩ | ⟨v, rfl⟩ | ⟨a, -, rfl⟩ | ⟨ms, -, -, rfl⟩⟩ | ⟨-, a, b, rfl⟩ := h
  · exact hok
  · exact trivial
  · exact trivial
  · exact trivial
  · exact trivial
  · exact hok

theorem sampleOk_step {s t : State} (hok : SampleOk s) (h : step s = .next t) : SampleOk t := by
  obtain ⟨rest, hb | hs⟩ := step_inv h
  · exact sampleOk_of_labelStep (s := s.hostDone rest) rfl hok (blockStep_inv hb)
  · exact sampleOk_hostStep (s := s.hostDone rest) hok hs

/-! ### The events that move a byte -/

/-- The labels at which a register access of the FIFO or a BufWrite is made, with its event. -/
inductive MoveEvent : Loc → Event → Prop
  | push (b : Byte) : MoveEvent (.eng (.fill (.push b))) (.write .fifo (zext32 b))
  | pop (v : Word) : MoveEvent (.eng (.drain .pop)) (.read .fifo v)
  | donePop (v : Word) : MoveEvent (.eng (.doneDrain .pop)) (.read .fifo v)
  | store (b : Byte) (i : Nat) : MoveEvent (.eng (.drain (.store b))) (.bufWrite i b)
  | doneStore (b : Byte) (i : Nat) : MoveEvent (.eng (.doneDrain (.store b))) (.bufWrite i b)

/-- The event is an access of the FIFO or a BufWrite. -/
def movesData : Event → Bool
  | .read .fifo _ => true
  | .write .fifo _ => true
  | .bufWrite _ _ => true
  | _ => false

/-- Data moves at the labels of `MoveEvent` alone. -/
theorem moveEvent_of_labelEvent {s : State} {l : Loc} {e : Event} (he : labelEvent s l = some e)
    (hmoves : movesData e = true) : MoveEvent l e := by
  match l, he with
  | .bc (.initClkt _), he | .bc .probeClkt, he | .bc (.initDiv _), he | .bc (.setSpeedDiv _), he
  | .bc .probeDiv, he | .eng (.entry .clearControl), he | .eng (.entry .clearStatus), he
  | .eng (.entry .clock), he | .eng .deadline, he | .eng .pollRead, he | .eng .doneRecheck, he
  | .eng (.exit .clearControl), he | .eng (.exit .clearStatus), he => cases he; cases hmoves
  | .eng (.entry .address), he | .eng (.entry .dataLength), he | .eng (.entry .start), he =>
    obtain ⟨m, -, rfl⟩ := Option.map_eq_some_iff.1 he
    cases hmoves
  | .eng (.fill .sample), he | .eng (.drain .sample), he | .eng (.doneDrain .sample), he =>
    obtain ⟨-, he⟩ := Option.ite_none_right_eq_some.1 he
    cases he; cases hmoves
  | .eng (.fill .load), he =>
    obtain ⟨m, -, he⟩ := Option.bind_eq_some_iff.1 he
    obtain ⟨c, -, rfl⟩ := Option.map_eq_some_iff.1 he
    cases hmoves
  | .eng (.fill (.push b)), he => cases he; exact .push b
  | .eng (.drain .pop), he => cases he; exact .pop _
  | .eng (.doneDrain .pop), he => cases he; exact .donePop _
  | .eng (.drain (.store b)), he =>
    obtain ⟨c, -, rfl⟩ := Option.map_eq_some_iff.1 he
    exact .store b _
  | .eng (.doneDrain (.store b)), he =>
    obtain ⟨c, -, rfl⟩ := Option.map_eq_some_iff.1 he
    exact .doneStore b _

theorem loc_of_fifoWrite {s t : State} {v : Word} (h : step s = .next t)
    (he : t.events = s.events ++ [.write .fifo v]) : ∃ b, s.loc = .eng (.fill (.push b)) := by
  have hmove := moveEvent_of_labelEvent (labelEvent_of_step h he) rfl
  generalize s.loc = l at hmove
  cases hmove with
  | push b => exact ⟨b, rfl⟩

theorem loc_of_fifoRead {s t : State} {v : Word} (h : step s = .next t)
    (he : t.events = s.events ++ [.read .fifo v]) :
    s.loc = .eng (.drain .pop) ∨ s.loc = .eng (.doneDrain .pop) := by
  have hmove := moveEvent_of_labelEvent (labelEvent_of_step h he) rfl
  generalize s.loc = l at hmove
  cases hmove with
  | pop => exact .inl rfl
  | donePop => exact .inr rfl

/-- A fresh sample in the words of R123 and R130. -/
theorem freshSample_spelled {s : State} {flag : Word → Bool} (h : FreshSample s flag) :
    (∃ w, lastAccess s = some (.read .s w) ∧ flag w = true) ∧ ∃ c, s.cur = some c ∧ 0 < c.remaining := by
  obtain ⟨hlast, c, hc, h0⟩ := h
  exact ⟨hlast, c, hc, Nat.pos_of_ne_zero h0⟩

/-- Settles O46: the FIFO is touched at the points that need a fresh sample alone, and every step keeps it. -/
theorem fifoAccessFollowsFreshStatus : Obligations.FifoAccessFollowsFreshStatus := by
  refine ⟨fun s t => sampleOk_step, fun s t v hok _ h he => ?_, fun s t v hok _ h he => ?_⟩
  · obtain ⟨b, hl⟩ := loc_of_fifoWrite h he
    exact freshSample_spelled ((sampleOk_iff s).1 hok statusTxd (by rw [hl]; rfl))
  · obtain hl | hl := loc_of_fifoRead h he
    · exact freshSample_spelled ((sampleOk_iff s).1 hok statusRxd (by rw [hl]; rfl))
    · exact freshSample_spelled ((sampleOk_iff s).1 hok statusRxd (by rw [hl]; rfl))

/-! ### The cursor -/

/-- The labels whose step counts a byte as moved (43_fifo_pump.md R203, R208). -/
def countsByte : Loc → Bool
  | .eng (.fill (.push _)) => true
  | .eng (.drain (.store _)) => true
  | .eng (.doneDrain (.store _)) => true
  | _ => false

theorem engineReturn_cur {s t : State} {res : Result} (h : s.engineReturn res = .next t) :
    t.cur = none := by
  obtain ⟨-, rfl⟩ | ⟨-, -, rfl⟩ | ⟨-, -, rfl⟩ := engineReturn_inv h <;> rfl

/-- Over a step that has a cursor before and after, the cursor moves on by a byte or stays. -/
theorem cursor_of_labelStep {s t : State} {l : Loc} {c c' : Cursor} (hok : LocOk (s.goto l))
    (h : LabelStep s t l) (hc : s.cur = some c) (hc' : t.cur = some c') :
    (countsByte l = true ∧ c.remaining ≠ 0 ∧ c' = c.advance) ∨ (countsByte l = false ∧ c' = c) := by
  have same : t.cur = s.cur → c' = c := fun e => Option.some.inj (hc'.symm.trans (e.trans hc))
  have gone : t.cur ≠ none := fun e => by cases e.symm.trans hc'
  have moved : ∀ {c₀ : Cursor}, s.cur = some c₀ → t.cur = some c₀.advance → c' = c.advance := by
    intro c₀ h₀ ht
    obtain rfl := Option.some.inj (hc.symm.trans h₀)
    exact Option.some.inj (hc'.symm.trans ht)
  have nonempty : ∀ {m : Message} {c₀ : Cursor}, Polling s m c₀ → c₀.remaining ≠ 0 →
      c.remaining ≠ 0 := by
    intro m c₀ hp h0
    rwa [cursor_eq_of_polling hp hc]
  match l, hok, h with
  | .idle, _, h | .bc (.initClkt _), _, h | .bc .probeClkt, _, h | .eng (.entry .clearControl), _, h
  | .eng (.entry .clearStatus), _, h | .eng .pollRead, _, h | .eng (.drain .pop), _, h
  | .eng (.doneDrain .pop), _, h | .eng (.exit .clearControl), _, h =>
    obtain rfl := h; exact .inr ⟨rfl, same rfl⟩
  | .bc (.initDiv _), _, h | .bc (.setSpeedDiv _), _, h => obtain rfl := h; exact absurd rfl gone
  | .bc .probeDiv, _, h => obtain ⟨res, -, rfl⟩ := h; exact absurd rfl gone
  | .seq, _, h =>
    obtain ⟨m, -, rfl⟩ | ⟨-, rfl⟩ := h
    · exact .inr ⟨rfl, same rfl⟩
    · exact absurd rfl gone
  | .eng .validate, _, h =>
    obtain ⟨m, -, ⟨-, rfl⟩ | ⟨-, hret⟩⟩ := h
    · exact .inr ⟨rfl, same rfl⟩
    · exact absurd (engineReturn_cur hret) gone
  | .eng (.entry .address), _, h | .eng (.entry .dataLength), _, h | .eng (.entry .start), _, h
  | .eng .doneRecheck, _, h => obtain ⟨x, -, rfl⟩ := h; exact .inr ⟨rfl, same rfl⟩
  | .eng (.entry .clock), ⟨⟨_, hnone, _⟩, _⟩, _ => cases hc.symm.trans hnone
  | .eng (.classify _), _, h =>
    obtain ⟨m, c, -, -, h⟩ := h
    obtain ⟨res, -, rfl⟩ | ⟨-, rfl⟩ | ⟨-, rfl⟩ | ⟨-, rfl⟩ | ⟨-, rfl⟩ := h
    · exact .inr ⟨rfl, same rfl⟩
    · refine .inr ⟨rfl, same ?_⟩
      rw [doneStep_eq]; split <;> rfl
    all_goals exact .inr ⟨rfl, same rfl⟩
  | .eng (.fill .sample), _, h | .eng (.drain .sample), _, h | .eng (.doneDrain .sample), _, h =>
    obtain ⟨c, -, ⟨-, rfl⟩ | ⟨-, rfl⟩⟩ := h <;> exact .inr ⟨rfl, same rfl⟩
  | .eng (.fill .load), _, h => obtain ⟨m, c, -, -, -, rfl⟩ := h; exact .inr ⟨rfl, same rfl⟩
  | .eng (.fill (.push _)), ⟨_, _, hp, h0⟩, h =>
    obtain ⟨c₀, h₀, rfl⟩ := h
    exact .inl ⟨rfl, nonempty hp h0, moved h₀ rfl⟩
  | .eng (.drain (.store _)), ⟨_, _, hp, h0⟩, h =>
    obtain ⟨m, c₀, -, h₀, -, rfl⟩ := h
    exact .inl ⟨rfl, nonempty hp h0, moved h₀ rfl⟩
  | .eng (.doneDrain (.store _)), ⟨_, _, hp, _, h0⟩, h =>
    obtain ⟨m, c₀, -, h₀, -, rfl⟩ := h
    exact .inl ⟨rfl, nonempty hp h0, moved h₀ rfl⟩
  | .eng .deadline, _, h => obtain ⟨d, -, ⟨-, rfl⟩ | ⟨-, rfl⟩⟩ := h <;> exact .inr ⟨rfl, same rfl⟩
  | .eng (.exit .clearStatus), _, h =>
    obtain ⟨res, -, hret⟩ := h
    exact absurd (engineReturn_cur hret) gone

/-- A label that counts a byte makes a FIFO write or a BufWrite. -/
theorem labelEvent_of_countsByte {s : State} {l : Loc} {c : Cursor} (hl : countsByte l = true)
    (hc : s.cur = some c) :
    (∃ v, labelEvent s l = some (.write .fifo v)) ∨ ∃ i b, labelEvent s l = some (.bufWrite i b) := by
  unfold countsByte at hl
  split at hl
  · exact .inl ⟨_, rfl⟩
  · exact .inr ⟨c.position, _, by rw [labelEvent, hc]; rfl⟩
  · exact .inr ⟨c.position, _, by rw [labelEvent, hc]; rfl⟩
  · cases hl

/-- A FIFO write or a BufWrite is made at a label that counts a byte. -/
theorem countsByte_of_step {s t : State} {e : Event} (h : step s = .next t)
    (he : t.events = s.events ++ [e])
    (hwrite : (∃ v, e = .write .fifo v) ∨ ∃ i b, e = .bufWrite i b) : countsByte s.loc = true := by
  have hmoves : movesData e = true := by
    obtain ⟨v, rfl⟩ | ⟨i, b, rfl⟩ := hwrite <;> rfl
  have hmove := moveEvent_of_labelEvent (labelEvent_of_step h he) hmoves
  generalize s.loc = l at hmove
  cases hmove with
  | push | store | doneStore => rfl
  | pop | donePop =>
    obtain ⟨v, hv⟩ | ⟨i, b, hb⟩ := hwrite
    · cases hv
    · cases hb

/-- Settles O42: the cursor moves on by a byte at the labels whose event is a FIFO write or a BufWrite, and
stays over every other step. -/
theorem cursorKeepsItsSum : Obligations.CursorKeepsItsSum := by
  intro s t c c' hinv h hc hc'
  have counted : ∀ e, t.events = s.events ++ [e] →
      ((∃ v, e = .write .fifo v) ∨ ∃ i b, e = .bufWrite i b) → countsByte s.loc = true :=
    fun e => countsByte_of_step h
  obtain ⟨rest, hb | hs⟩ := step_inv h
  · obtain ⟨hl, h0, rfl⟩ | ⟨hl, rfl⟩ :=
      cursor_of_labelStep (s := s.hostDone rest) hinv.loc (blockStep_inv hb) hc hc'
    · have hsum : c.advance.position + c.advance.remaining = c.position + c.remaining ∧
          c.advance.remaining + 1 = c.remaining := by
        simp only [Cursor.advance]; omega
      refine ⟨hsum.1, by omega, by omega, fun _ => hsum.2, fun _ => hsum.2, fun hfifo hstore => ?_⟩
      have hev := labelStep_events (blockStep_inv hb)
      obtain ⟨v, hv⟩ | ⟨i, b, hv⟩ :=
        labelEvent_of_countsByte (s := s.hostDone rest) (l := (s.hostDone rest).loc) hl hc
      · rw [hv] at hev; exact absurd hev (hfifo v)
      · rw [hv] at hev; exact absurd hev (hstore i b)
    · have still : countsByte s.loc ≠ true := by rw [← Bool.eq_false_iff]; exact hl
      exact ⟨rfl, le_rfl, Nat.le_succ _, fun ⟨v, hv⟩ => absurd (counted _ hv (.inl ⟨v, rfl⟩)) still,
        fun ⟨i, b, hv⟩ => absurd (counted _ hv (.inr ⟨i, b, rfl⟩)) still, fun _ _ => rfl⟩
  · obtain rfl : c' = c := Option.some.inj (hc'.symm.trans ((hostStep_frame hs).cur.trans hc))
    have hev : t.events = s.events := (hostStep_frame hs).events
    exact ⟨rfl, le_rfl, Nat.le_succ _, fun ⟨v, hv⟩ => by simp [hev] at hv,
      fun ⟨i, b, hv⟩ => by simp [hev] at hv, fun _ _ => rfl⟩

/-! ### Reset -/

theorem inv_reset : Inv State.reset where
  mem := rfl
  loc := ⟨⟨⟨rfl, rfl, rfl⟩, rfl, rfl⟩, ⟨rfl, rfl⟩, rfl⟩
  handle := ⟨.inl ⟨rfl, rfl⟩, nofun⟩
  trace := nofun
  seq := nofun
  align := fun h => absurd rfl h

/-- Settles O2: an idle block with no events, no message and a port of zeros is good. -/
theorem resetMeetsTheInvariants : Obligations.ResetMeetsTheInvariants :=
  ⟨inv_reset, trivial, fun _ => by unfold controlOff; decide⟩

end Sys2Proof.Machine
end

section
/-! PROOFS of the family other, other buffer contents (20_memory.md R67): only the load of Fill looks at
memory. -/

namespace Sys2Proof.Machine

/-- The state with other memory. -/
def State.withMem (s : State) (mem : Memory) : State := { s with mem := mem }

/-- An instruction does the same on other memory. -/
theorem exec_mem {i : Instr} {s t : State} (h : exec i s = .next t) (mem : Memory) :
    exec i (s.withMem mem) = .next (t.withMem mem) := by
  have admits : ∀ own started, s.admission own started = .next t →
      (s.withMem mem).admission own (started.withMem mem) =
        .next (t.withMem mem) := by
    intro own started hadm
    rw [State.admission] at hadm
    rw [State.admission, show (s.withMem mem).refusal own = s.refusal own from rfl]
    cases hr : s.refusal own <;> rw [hr] at hadm <;> cases hadm <;> rfl
  cases i with
  | init | setSpeed | probe | xfer => exact admits _ _ h
  | _ => cases h; rfl

theorem issueStep_mem {w : Word} {ops : OperandRecord} {s t : State} (h : issueStep w ops s = .next t)
    (mem : Memory) : issueStep w ops (s.withMem mem) = .next (t.withMem mem) := by
  unfold issueStep at h ⊢
  cases hd : decodeCommand w ops with
  | none => rw [hd] at h; cases h; rfl
  | some i => rw [hd] at h; exact exec_mem h mem

theorem engineReturn_mem {s t : State} {res : Result} (h : s.engineReturn res = .next t)
    (mem : Memory) : (s.withMem mem).engineReturn res = .next (t.withMem mem) := by
  unfold State.engineReturn
  rw [show (s.withMem mem).caller = s.caller from rfl]
  obtain ⟨hk, rfl⟩ | ⟨hk, hres, rfl⟩ | ⟨hk, hres, rfl⟩ := engineReturn_inv h <;> rw [hk]
  · rfl
  · exact if_pos hres
  · exact if_neg hres

/-- At every label but the load other memory leads to the same state, with memory of its own. -/
theorem labelStep_mem {s t : State} {l : Loc} (hl : l ≠ .eng (.fill .load)) (h : LabelStep s t l)
    (mem : Memory) : ∃ mem', LabelStep (s.withMem mem) (t.withMem mem') l := by
  match l, hl, h with
  | .idle, _, h | .bc (.initClkt _), _, h | .bc (.initDiv _), _, h | .bc (.setSpeedDiv _), _, h
  | .bc .probeClkt, _, h | .eng (.entry .clearControl), _, h | .eng (.entry .clearStatus), _, h
  | .eng .pollRead, _, h | .eng (.drain .pop), _, h | .eng (.doneDrain .pop), _, h
  | .eng (.exit .clearControl), _, h => obtain rfl := h; exact ⟨mem, rfl⟩
  | .bc .probeDiv, _, h | .eng (.entry .address), _, h | .eng (.entry .dataLength), _, h
  | .eng (.entry .start), _, h | .eng (.entry .clock), _, h | .eng (.fill (.push _)), _, h
  | .eng .doneRecheck, _, h => obtain ⟨x, hx, rfl⟩ := h; exact ⟨mem, x, hx, rfl⟩
  | .seq, _, h =>
    obtain ⟨m, hm, rfl⟩ | ⟨hm, rfl⟩ := h
    · exact ⟨mem, .inl ⟨m, hm, rfl⟩⟩
    · exact ⟨mem, .inr ⟨hm, rfl⟩⟩
  | .eng .validate, _, h =>
    obtain ⟨m, hm, ⟨ha, rfl⟩ | ⟨ha, hret⟩⟩ := h
    · exact ⟨mem, m, hm, .inl ⟨ha, rfl⟩⟩
    · exact ⟨mem, m, hm, .inr ⟨ha, engineReturn_mem hret mem⟩⟩
  | .eng (.classify w), _, h =>
    obtain ⟨m, c, hm, hc, h⟩ := h
    refine ⟨mem, m, c, hm, hc, ?_⟩
    obtain ⟨res, hd, rfl⟩ | ⟨hd, rfl⟩ | ⟨hd, rfl⟩ | ⟨hd, rfl⟩ | ⟨hd, rfl⟩ := h
    · exact .inl ⟨res, hd, rfl⟩
    · refine .inr (.inl ⟨hd, ?_⟩)
      rw [doneStep_eq, doneStep_eq]; split <;> rfl
    · exact .inr (.inr (.inl ⟨hd, rfl⟩))
    · exact .inr (.inr (.inr (.inl ⟨hd, rfl⟩)))
    · exact .inr (.inr (.inr (.inr ⟨hd, rfl⟩)))
  | .eng (.fill .sample), _, h | .eng (.drain .sample), _, h | .eng (.doneDrain .sample), _, h =>
    obtain ⟨c, hc, ⟨h0, rfl⟩ | ⟨h0, rfl⟩⟩ := h
    · exact ⟨mem, c, hc, .inl ⟨h0, rfl⟩⟩
    · exact ⟨mem, c, hc, .inr ⟨h0, rfl⟩⟩
  | .eng (.drain (.store b)), _, h | .eng (.doneDrain (.store b)), _, h =>
    obtain ⟨m, c, hm, hc, hp, rfl⟩ := h
    exact ⟨mem.write (bufAddress m c.position) b, m, c, hm, hc, hp, rfl⟩
  | .eng .deadline, _, h =>
    obtain ⟨d, hd, ⟨hpast, rfl⟩ | ⟨hpast, rfl⟩⟩ := h
    · exact ⟨mem, d, hd, .inl ⟨hpast, rfl⟩⟩
    · exact ⟨mem, d, hd, .inr ⟨hpast, rfl⟩⟩
  | .eng (.exit .clearStatus), _, h =>
    obtain ⟨res, hr, hret⟩ := h
    exact ⟨mem, res, hr, engineReturn_mem (s := s.regWrite .s 0x00000302) hret mem⟩

theorem blockStep_otherMem {s t : State} (hl : s.loc ≠ .eng (.fill .load)) (h : blockStep s = .next t)
    (mem : Memory) : ∃ mem', blockStep (s.withMem mem) = .next (t.withMem mem') := by
  obtain ⟨mem', hlabel⟩ := labelStep_mem hl (blockStep_inv h) mem
  have hword : EntryWordOk s s.loc := entryWordOk_of_blockStep h
  exact ⟨mem', blockStep_of_labelStep (s := s.withMem mem) hword hlabel⟩

/-- Which part of a step the host has does not depend on memory: the block steps, the host issues a word, or
it stores a byte between commands. -/
theorem step_anyMem (s : State) :
    ((∀ w ops rest, s.host ≠ .issue w ops :: rest) ∧
      ∃ rest, ∀ mem, step (s.withMem mem) = blockStep ((s.hostDone rest).withMem mem)) ∨
    (∃ w ops rest, s.host = .issue w ops :: rest ∧
      ∀ mem, step (s.withMem mem) = issueStep w ops ((s.hostDone rest).withMem mem)) ∨
    (∃ a b rest, s.loc = .idle ∧
      ∀ mem, step (s.withMem mem) = .next (((s.hostDone rest).withMem mem).hostStore a b)) := by
  cases hh : s.host with
  | nil => exact .inl ⟨nofun, s.host, fun mem => step_host_nil (s := s.withMem mem) hh⟩
  | cons act rest =>
    cases act with
    | pass => exact .inl ⟨nofun, rest, fun mem => step_host_pass (s := s.withMem mem) hh⟩
    | issue w ops =>
      exact .inr (.inl ⟨w, ops, rest, rfl, fun mem => step_host_issue (s := s.withMem mem) hh⟩)
    | await =>
      by_cases hl : s.loc = .idle
      · refine .inl ⟨nofun, rest, fun mem => ?_⟩
        rw [step_host_await (s := s.withMem mem) hh,
          blockStep_idle (s := (s.hostDone rest).withMem mem) hl]
        exact if_pos ((isIdle_iff _).2 hl)
      · refine .inl ⟨nofun, s.host, fun mem => ?_⟩
        rw [step_host_await (s := s.withMem mem) hh]
        exact if_neg fun h => hl ((isIdle_iff _).1 h)
    | store a b =>
      by_cases hl : s.loc = .idle
      · refine .inr (.inr ⟨a, b, rest, hl, fun mem => ?_⟩)
        rw [step_host_store (s := s.withMem mem) hh]
        exact if_pos ((isIdle_iff _).2 hl)
      · refine .inl ⟨nofun, s.host, fun mem => ?_⟩
        rw [step_host_store (s := s.withMem mem) hh]
        exact if_neg fun h => hl ((isIdle_iff _).1 h)

/-- A step that is no load does the same on other memory, but for memory itself. -/
theorem step_otherMem {s t : State} (h : step s = .next t)
    (hl : s.loc ≠ .eng (.fill .load) ∨ ∃ w ops rest, s.host = .issue w ops :: rest) (mem : Memory) :
    ∃ mem', step (s.withMem mem) = .next (t.withMem mem') := by
  obtain ⟨hno, rest, hrun⟩ | ⟨w, ops, rest, -, hrun⟩ | ⟨a, b, rest, -, hrun⟩ := step_anyMem s
  · rw [hrun mem]
    have hne := hl.resolve_right fun ⟨w, ops, rest, hh⟩ => hno w ops rest hh
    exact blockStep_otherMem (s := s.hostDone rest) hne ((hrun s.mem).symm.trans h) mem
  · rw [hrun mem]
    exact ⟨mem, issueStep_mem ((hrun s.mem).symm.trans h) mem⟩
  · obtain rfl := Host.Outcome.next.inj ((hrun s.mem).symm.trans h)
    exact ⟨mem.write a b, hrun mem⟩

/-- At the load, with no word issued, each memory's byte at the cursor is read and goes on to its push. -/
theorem step_load {s t : State} (h : step s = .next t) (hl : s.loc = .eng (.fill .load))
    (hi : ∀ w ops rest, s.host ≠ .issue w ops :: rest) :
    ∃ m c rest, s.m = some m ∧ s.cur = some c ∧ ∀ mem, step (s.withMem mem) =
      .next ((((s.hostDone rest).withMem mem).bufRead m c.position).goto
        (.eng (.fill (.push (mem.read (m.buffer.base + c.position)))))) := by
  obtain ⟨-, rest, hrun⟩ | ⟨w, ops, rest, hh, -⟩ | ⟨a, b, rest, hidle, -⟩ := step_anyMem s
  · have hb : blockStep (s.hostDone rest) = .next t := (hrun s.mem).symm.trans h
    obtain ⟨m, c, hm, hc, hp⟩ : AtBufferByte s := by
      obtain ⟨-, hready⟩ := (exists_blockStep_iff _).1 ⟨t, hb⟩
      rwa [State.hostDone_loc, hl] at hready
    refine ⟨m, c, rest, hm, hc, fun mem => ?_⟩
    rw [hrun mem, blockStep_fillLoad (s := (s.hostDone rest).withMem mem) hl]
    simp [loadStep, State.withMem, hm, hc, hp, State.bufByte, bufAddress]
  · exact absurd hh (hi w ops rest)
  · cases hl.symm.trans hidle

/-- Settles O56: at the load both runs read the byte of their own memory at the same address; everywhere else
the same step leads to the same state but for memory. -/
theorem bufferContentsSteerNothing : Obligations.BufferContentsSteerNothing := by
  intro s t mem2 h
  by_cases hother : s.loc ≠ .eng (.fill .load) ∨ ∃ w ops rest, s.host = .issue w ops :: rest
  · obtain ⟨mem', hstep⟩ := step_otherMem h hother mem2
    refine ⟨_, hstep, rfl, rfl, rfl, rfl, rfl, rfl, rfl, rfl, rfl, rfl, rfl, rfl, rfl, rfl, rfl, rfl, rfl,
      fun _ => ⟨rfl, rfl⟩, fun hl hi => ?_⟩
    obtain hne | ⟨w, ops, rest, hh⟩ := hother
    · exact absurd hl hne
    · exact absurd hh (hi w ops rest)
  · obtain ⟨hl, hissue⟩ := not_or.1 hother
    obtain ⟨m, c, rest, hm, hc, hrun⟩ := step_load h (not_ne_iff.1 hl)
      fun w ops rest hh => hissue ⟨w, ops, rest, hh⟩
    obtain rfl := Host.Outcome.next.inj ((hrun s.mem).symm.trans h)
    exact ⟨_, hrun mem2, rfl, rfl, rfl, rfl, rfl, rfl, rfl, rfl, rfl, rfl, rfl, rfl, rfl, rfl, rfl, rfl, rfl,
      fun hne => absurd hne hother, fun _ _ => ⟨m, c, hm, hc, rfl, rfl, rfl, rfl⟩⟩

end Sys2Proof.Machine
end

section
/-! PROOFS of the family other, the commands and the engine label by label, several steps at a time: INIT,
SETSPEED and PROBE (41_bus_controller.md), the entry, one poll iteration and the exit
(42_transfer_engine.md), the Sequencer (44_message_sequencer.md). -/

namespace Sys2Proof.Machine

/-! ### Whole states -/

/-- A run whose first step is `h`. -/
theorem runSteps_cons {n : Nat} {s t : State} {o : Out} (h : step s = .next t) (hrun : runSteps n t = o) :
    runSteps (n + 1) s = o :=
  (runSteps_succ h).trans hrun

/-- A run whose first step is the block's. -/
theorem runSteps_block {n : Nat} {s t : State} {o : Out} (hb : blockStep s = .next t) (hh : s.host = [])
    (hrun : runSteps n t = o) : runSteps (n + 1) s = o :=
  runSteps_cons (step_of_block hh hb) hrun

/-- Two runs, one after the other. -/
theorem runSteps_trans {n k : Nat} {s t : State} {o : Out} (h : runSteps n s = .next t)
    (hrun : runSteps k t = o) : runSteps (n + k) s = o :=
  (runSteps_add h).trans hrun

/-- The fields of a running command as a ready block has them. -/
def State.quieted (s : State) : State :=
  { s with phase := .idle, cur := none, deadline := none, loc := .idle, seq := [], idx := 0, m := none,
           r := none, caller := none, host := [] }

theorem quieted_of_ready {s : State} (h : Ready s) : s.quieted = s := by
  obtain ⟨⟨hl, ⟨⟨hp, hc, hd⟩, hm, hk⟩, ⟨hs, hi⟩, hr⟩, -, hh⟩ := h
  simp only [State.quieted, ← hl, ← hp, ← hc, ← hd, ← hm, ← hk, ← hs, ← hi, ← hr, ← hh]

theorem host_of_ready {s : State} (h : Ready s) : s.host = [] := by
  obtain ⟨-, -, hh⟩ := h
  exact hh

theorem quiescent_commandReturn (s : State) (v : Return) : Quiescent (s.commandReturn v) :=
  ⟨rfl, ⟨⟨rfl, rfl, rfl⟩, rfl, rfl⟩, ⟨rfl, rfl⟩, rfl⟩

/-- Where no engine runs, releasing it gives up its message and its caller alone. -/
theorem release_of_resting {s : State} (h : EngineResting s) :
    s.release = { s with m := none, caller := none } := by
  obtain ⟨hp, hc, hd⟩ := h
  simp only [State.release, ← hp, ← hc, ← hd]

/-! ### Lists of events, one at a time -/

theorem append_entryEvents (es : List Event) (m : Message) :
    es ++ entryEvents m = es ++ [.write .c 0x00000030] ++ [.write .s 0x00000302] ++
      [.write .a (natWord m.chipAddress)] ++ [.write .dlen (natWord m.length)] ++
      [.write .c (startWord m.direction)] := by
  cases hd : m.direction <;> simp [entryEvents, hd, natWord, startWord_read, startWord_write]

theorem entryPort_eq (p : Port) (m : Message) :
    entryPort p m = { p with c := startWord m.direction, s := 0x00000302, a := natWord m.chipAddress,
                             dlen := natWord m.length } := by
  cases hd : m.direction <;> simp [entryPort, hd, natWord, startWord_read, startWord_write]

theorem append_pair (es : List Event) (a b : Event) : es ++ [a, b] = es ++ [a] ++ [b] :=
  List.append_cons es a [b]

/-! ### INIT, SETSPEED and the re-init -/

/-- Settles O17: INIT's two labels, one write each. -/
theorem initWritesClktThenDivAndReturns : Obligations.InitWritesClktThenDivAndReturns := by
  intro s v h
  have hh := host_of_ready h
  refine ⟨_, exec_init_of_ready h v, ?_⟩
  refine runSteps_block (blockStep_initClkt rfl) hh (runSteps_block (blockStep_initDiv rfl) hh ?_)
  rw [append_pair, ← quieted_of_ready h]
  rfl

/-- Settles O18: SETSPEED's one label. -/
theorem setSpeedWritesDivAndReturns : Obligations.SetSpeedWritesDivAndReturns := by
  intro s v h
  have hh := host_of_ready h
  refine ⟨_, exec_setSpeed_of_ready h v, ?_⟩
  refine runSteps_block (blockStep_setSpeedDiv rfl) hh ?_
  rw [← quieted_of_ready h]
  rfl

/-- The state in which a probe whose engine result is `res` returns, after its re-init. -/
def State.reinited (s : State) (res : Result) : State :=
  (((s.regWrite .clkt 0x00000000).regWrite .div 0x00001770).recordSpeed Config.speedStd true).commandReturn
    (probeReturn res)

theorem reinited_of_initialized {s : State} (hi : s.handle.initialized = true) (res : Result) :
    s.reinited res = (((s.regWrite .clkt 0x00000000).regWrite .div 0x00001770).recordSpeed Config.speedStd
      s.handle.initialized).commandReturn (probeReturn res) := by
  rw [hi]; rfl

/-- A probe's re-init: two writes, and the probe returns. -/
theorem run_reinit {s : State} {res : Result} (hl : s.loc = .bc .probeClkt) (hh : s.host = [])
    (hr : s.r = some res) : runSteps 2 s = .next (s.reinited res) := by
  have hdone : (((s.regWrite .clkt 0x00000000).goto (.bc .probeDiv)).regWrite .div 0x00001770).probeDone =
      .next (s.reinited res) := by
    simp only [State.probeDone, State.regWrite_r, State.goto_r, hr]
    rfl
  exact runSteps_block (blockStep_probeClkt hl) hh
    (runSteps_block ((blockStep_probeDiv rfl).trans hdone) hh rfl)

/-- Settles O21: the re-init is two fixed writes, whatever the result it maps. -/
theorem probeReinitsOnEveryResult : Obligations.ProbeReinitsOnEveryResult := by
  intro s res hl hh hr
  refine ⟨_, run_reinit hl hh hr, (append_pair _ _ _).symm, rfl, quiescent_commandReturn _ _, rfl,
    ?_, ?_, fun hok hbus => ?_⟩
  · rintro rfl; rfl
  · rintro rfl; rfl
  · cases res with
    | ok => exact absurd rfl hok
    | busError => exact absurd rfl hbus
    | _ => rfl

/-! ### The engine's return -/

/-- The engine hands its result to a probe, which goes on to its re-init. -/
def State.toReinit (s : State) (res : Result) : State :=
  { s.release with r := some res, loc := .bc .probeClkt }

theorem engineReturn_probe {s : State} (hk : s.caller = some .probe) (res : Result) :
    s.engineReturn res = .next (s.toReinit res) := by
  simp [State.engineReturn, State.toReinit, hk]

theorem engineReturn_ok {s : State} (hk : s.caller = some .sequencer) :
    s.engineReturn .ok = .next s.release.nextMessage := by
  simp [State.engineReturn, hk]

theorem engineReturn_err {s : State} {res : Result} (hk : s.caller = some .sequencer) (hres : res ≠ .ok) :
    s.engineReturn res = .next (s.commandReturn (.err res)) := by
  simp [State.engineReturn, hk, hres]

theorem step_validate_invalid {s : State} {m : Message} (hl : s.loc = .eng .validate) (hh : s.host = [])
    (hm : s.m = some m) (ha : 0x7F < m.chipAddress) : step s = s.engineReturn .invalidAddress := by
  have hinvalid : addressValid m.chipAddress ≠ true := fun h => Nat.not_le_of_lt ha (of_decide_eq_true h)
  rw [step_of_block hh (blockStep_validate hl), validateStep_eq hm, if_neg hinvalid]

/-- Settles O30: an invalid address returns from VALIDATE to the caller. -/
theorem invalidAddressEndsBeforeAnyAccess : Obligations.InvalidAddressEndsBeforeAnyAccess := by
  intro s m hl hh hm ha hrest
  rw [step_validate_invalid hl hh hm ha]
  refine ⟨fun hk => ⟨_, engineReturn_err hk nofun, quiescent_commandReturn _ _, rfl, rfl, rfl, rfl, rfl⟩,
    fun hk => ?_⟩
  rw [engineReturn_probe hk, State.toReinit, release_of_resting hrest]

/-- Settles O20: VALIDATE returns the probe to its re-init, and that maps the result to an error. -/
theorem probeOfInvalidAddressOnlyReinits : Obligations.ProbeOfInvalidAddressOnlyReinits := by
  intro s a h hi ha
  have hh := host_of_ready h
  refine ⟨_, exec_probe_of_ready h hi a, ?_⟩
  have hreturn : step (s.enterEngine .probe (probeMessage a)) =
      .next ((s.enterEngine .probe (probeMessage a)).toReinit .invalidAddress) :=
    (step_validate_invalid (s := s.enterEngine .probe (probeMessage a)) rfl hh rfl ha).trans
      (engineReturn_probe (s := s.enterEngine .probe (probeMessage a)) rfl _)
  have hreinit := run_reinit
    (s := (s.enterEngine .probe (probeMessage a)).toReinit .invalidAddress) rfl hh rfl
  refine runSteps_cons hreturn (hreinit.trans ?_)
  rw [reinited_of_initialized (s := (s.enterEngine .probe (probeMessage a)).toReinit .invalidAddress) hi,
    reinitEvents, append_pair, ← quieted_of_ready h]
  rfl

/-! ### The entry -/

/-- What the clock answers depends on the clock, its advances to come and the events so far. -/
theorem nowAnswer_congr {s u : State} (hclock : u.clock = s.clock) (hticks : u.ticks = s.ticks)
    (hevents : u.events = s.events) : u.nowAnswer = s.nowAnswer := by
  simp only [State.nowAnswer, State.advance, hclock, hticks, hevents]

/-- The state after the five entry writes of message `m`. -/
def State.entryWritten (s : State) (m : Message) : State :=
  { s with events := s.events ++ entryEvents m, port := entryPort s.port m, loc := .eng (.entry .clock) }

/-- VALIDATE and the entry writes: one step for the address check and one for each write. -/
theorem run_entryWrites {s : State} {m : Message} (hl : s.loc = .eng .validate) (hh : s.host = [])
    (hm : s.m = some m) (ha : m.chipAddress ≤ 0x7F) (hsize : m.length = m.buffer.size)
    (hmax : m.length ≤ 0xFFFF) : runSteps 6 s = .next (s.entryWritten m) := by
  have hvalid : addressValid m.chipAddress = true := decide_eq_true ha
  have hwf : messageWf m = true := (messageWf_iff m).2 ⟨hsize, hmax⟩
  have hv : step s = .next (s.goto (.eng (.entry .clearControl))) := by
    rw [step_of_block hh (blockStep_validate hl), validateStep_eq hm, if_pos hvalid]
  refine runSteps_cons hv ?_
  refine runSteps_block (blockStep_entryClearControl rfl) (by simpa using hh) ?_
  refine runSteps_block (blockStep_entryClearStatus rfl) (by simpa using hh) ?_
  refine runSteps_block (blockStep_entryAddress rfl (by simpa using hm) hvalid) (by simpa using hh) ?_
  refine runSteps_block (blockStep_entryLength rfl (by simpa using hm) hwf) (by simpa using hh) ?_
  refine runSteps_block (blockStep_entryStart rfl (by simpa using hm)) (by simpa using hh) ?_
  simp only [State.entryWritten, entryPort_eq, append_entryEvents, runSteps, State.goto, State.regWrite,
    Port.set]

/-- The state at the first status read of message `m`, the entry done and the clock read. -/
def State.entered (s : State) (m : Message) (t0 : Nat) : State :=
  { s with events := s.events ++ entryEvents m ++ [.now t0], port := entryPort s.port m,
           cur := some { remaining := m.length, position := 0 }, deadline := some (t0 + 100),
           phase := .activePoll, loc := .eng .pollRead, clock := t0, ticks := s.ticks.tail }

/-- The entry: the writes, then the clock read sets the deadline. -/
theorem run_entry {s : State} {m : Message} {t0 : Nat} (hl : s.loc = .eng .validate) (hh : s.host = [])
    (hm : s.m = some m) (ha : m.chipAddress ≤ 0x7F) (hsize : m.length = m.buffer.size)
    (hmax : m.length ≤ 0xFFFF)
    (ht : ({ s with events := s.events ++ entryEvents m } : State).nowAnswer = t0) :
    runSteps 7 s = .next (s.entered m t0) := by
  have hnow : (s.entryWritten m).nowAnswer = t0 := (nowAnswer_congr rfl rfl rfl).trans ht
  have hclock : step (s.entryWritten m) = .next (s.entered m t0) := by
    rw [step_of_block (s := s.entryWritten m) hh (blockStep_entryClock rfl),
      entryClockStep_eq (s := s.entryWritten m) hm, State.readClock, hnow]
    rfl
  exact runSteps_trans (k := 1) (run_entryWrites hl hh hm ha hsize hmax) (runSteps_cons hclock rfl)

/-- Settles O31. -/
theorem entryWritesInOrder : Obligations.EntryWritesInOrder :=
  fun _ _ _ hl hh hm ha hsize hmax ht => run_entry hl hh hm ha hsize hmax ht

/-! ### A poll iteration -/

theorem follow_goto (s : State) (m : Message) (c : Cursor) (l : Loc) (d : Decision) :
    (s.goto l).follow m c d = s.follow m c d := by
  cases d with
  | doneCheck => simp only [State.follow, doneStep_eq]; split <;> rfl
  | _ => rfl

/-- The status read and its decision. -/
theorem run_poll {s : State} {m : Message} {c : Cursor} {w : Word} (hl : s.loc = .eng .pollRead)
    (hh : s.host = []) (hm : s.m = some m) (hc : s.cur = some c) (hw : s.answer .s = w) :
    runSteps 2 s = .next ((s.regRead .s w).follow m c (classify w c.remaining)) := by
  subst hw
  refine runSteps_block (blockStep_pollRead hl) hh (runSteps_cons (step_classify rfl hh hm hc) ?_)
  rw [follow_goto]
  rfl

theorem step_recheck {s : State} {c : Cursor} (hl : s.loc = .eng .doneRecheck) (hh : s.host = [])
    (hc : s.cur = some c) : step s =
      .next ((s.regRead .s (s.answer .s)).finish (readDoneResult (s.answer .s) c.remaining)) := by
  rw [step_of_block hh (blockStep_recheck hl), State.recheck, State.regRead_cur, hc]

/-- Settles O34. -/
theorem recheckDecidesTheRead : Obligations.RecheckDecidesTheRead := by
  rintro s c w hl hh hc rfl
  exact step_recheck hl hh hc

theorem step_deadline_passed {s : State} {d : Nat} (hl : s.loc = .eng .deadline) (hh : s.host = [])
    (hd : s.deadline = some d) (hpast : d < s.nowAnswer) : step s = .next (s.readClock.finish .timeout) := by
  rw [step_of_block hh (blockStep_deadline hl), deadlineStep, hd]
  exact if_pos (decide_eq_true hpast)

theorem step_deadline_within {s : State} {d : Nat} (hl : s.loc = .eng .deadline) (hh : s.host = [])
    (hd : s.deadline = some d) (hin : s.nowAnswer ≤ d) :
    step s = .next (s.readClock.goto (.eng .pollRead)) := by
  rw [step_of_block hh (blockStep_deadline hl), deadlineStep, hd]
  exact if_neg fun h => Nat.not_lt_of_le hin (of_decide_eq_true h)

/-- Settles O35. -/
theorem deadlineIsStrict : Obligations.DeadlineIsStrict := by
  rintro s d t hl hh hd rfl
  exact ⟨step_deadline_passed hl hh hd, step_deadline_within hl hh hd⟩

/-- A status value that shows none of the tested flags decides nothing. -/
theorem classify_wait {w : Word} (h9 : w.getLsbD 9 = false) (h8 : w.getLsbD 8 = false ∨ w.getLsbD 0 = true)
    (h1 : w.getLsbD 1 = false) (h2 : w.getLsbD 2 = false) (h3 : w.getLsbD 3 = false) (remaining : Nat) :
    classify w remaining = .wait := by
  have herr : ¬ (w.getLsbD 8 = true ∧ w.getLsbD 0 = false) := by
    rintro ⟨h8', h0'⟩
    obtain h8 | h0 := h8
    · cases h8.symm.trans h8'
    · cases h0.symm.trans h0'
  simp only [classify_eq_bits, h9, herr, h1, h2, h3, Bool.false_eq_true, if_false]

/-- Settles O36: the read decides nothing, so the deadline is next, and it is not past. -/
theorem idleIterationChangesNoBlockState : Obligations.IdleIterationChangesNoBlockState := by
  intro s m c d t w hl hh hm hc hd hw h9 h8 h1 h2 h3 ht hin
  have hpoll := run_poll hl hh hm hc hw
  rw [classify_wait h9 h8 h1 h2 h3] at hpoll
  subst ht
  refine runSteps_trans (k := 1) hpoll (runSteps_cons (step_deadline_within rfl hh hd hin) ?_)
  rw [append_pair, ← hl]
  rfl

/-- Settles O37: by induction over the iterations, each of them idle at an unmoved clock. -/
theorem stoppedClockPollsOn : Obligations.StoppedClockPollsOn := by
  intro n
  induction n with
  | zero =>
    intro s m c d rest more hl hh hm hc hd hclock hdev hticks
    exact ⟨s, rfl, hl, rfl, rfl, rfl, rfl, rfl, rfl⟩
  | succ n ih =>
    intro s m c d rest more hl hh hm hc hd hclock hdev hticks
    have hw : s.answer .s = 0 := answer_cons (by rw [hdev]; rfl) _
    have hnow : ({ s with events := s.events ++ [.read .s 0] } : State).nowAnswer = s.clock :=
      nowAnswer_cons (s := { s with events := s.events ++ [.read .s 0] }) (a := 0)
        (rest := List.replicate n 0 ++ more) (by simpa [List.replicate_succ] using hticks)
    have hiter := idleIterationChangesNoBlockState s m c d s.clock 0 hl hh hm hc hd hw rfl (.inl rfl) rfl
      rfl rfl hnow hclock
    obtain ⟨t, hrun, hloc, hret, hphase, hcur, hmem, hport, hlen⟩ :=
      ih { s with events := s.events ++ [.read .s 0, .now s.clock], device := s.device.tail,
                  clock := s.clock, ticks := s.ticks.tail }
        m c d rest more hl hh hm hc hd hclock (by rw [hdev]; rfl) (by rw [hticks]; rfl)
    refine ⟨t, ?_, hloc, hret, hphase, hcur, hmem, hport, ?_⟩
    · rw [Nat.mul_succ, Nat.add_comm]
      exact runSteps_trans hiter hrun
    · rw [hlen, List.length_append]
      simp only [List.length_cons, List.length_nil]
      omega

/-! ### The exit -/

/-- The state after the two exit writes. -/
def State.exitWritten (s : State) : State :=
  ((s.regWrite .c 0x00000030).goto (.eng (.exit .clearStatus))).regWrite .s 0x00000302

/-- The two exit writes, and the engine returns. -/
theorem run_exit {s t : State} {res : Result} (hl : s.loc = .eng (.exit .clearControl)) (hh : s.host = [])
    (hr : s.r = some res) (hret : s.exitWritten.engineReturn res = .next t) : runSteps 2 s = .next t := by
  have hdone : s.exitWritten.exitDone = .next t := by
    rwa [State.exitDone, show s.exitWritten.r = some res from hr]
  exact runSteps_block (blockStep_exitControl hl) hh
    (runSteps_block ((blockStep_exitStatus rfl).trans hdone) hh rfl)

/-- Settles O32: the exit writes, then the caller's case of the engine's return. -/
theorem exitWritesThenReturnsToTheCaller : Obligations.ExitWritesThenReturnsToTheCaller := by
  intro s res hl hh hr hcaller
  obtain hk | hk := hcaller
  · by_cases hres : res = .ok
    · subst hres
      exact ⟨_, run_exit hl hh hr (engineReturn_ok (s := s.exitWritten) hk), (append_pair _ _ _).symm,
        rfl, rfl, rfl, rfl, rfl, rfl, rfl, rfl, rfl, fun _ _ => ⟨rfl, rfl, rfl, rfl, rfl⟩, fun _ hne => absurd rfl hne,
        fun hk' => by cases hk.symm.trans hk'⟩
    · exact ⟨_, run_exit hl hh hr (engineReturn_err (s := s.exitWritten) hk hres), (append_pair _ _ _).symm,
        rfl, rfl, rfl, rfl, rfl, rfl, rfl, rfl, rfl, fun _ hok => absurd hok hres,
        fun _ _ => ⟨quiescent_commandReturn _ _, rfl⟩, fun hk' => by cases hk.symm.trans hk'⟩
  · exact ⟨_, run_exit hl hh hr (engineReturn_probe (s := s.exitWritten) hk res), (append_pair _ _ _).symm,
      rfl, rfl, rfl, rfl, rfl, rfl, rfl, rfl, rfl, fun hk' => (by cases hk.symm.trans hk'),
      fun hk' => (by cases hk.symm.trans hk'),
      fun _ => ⟨rfl, rfl, rfl⟩⟩

/-! ### The Sequencer -/

theorem step_seq_next {s : State} {m : Message} (hl : s.loc = .seq) (hh : s.host = [])
    (hm : s.seq[s.idx]? = some m) : step s = .next (s.enterEngine .sequencer m) := by
  rw [step_of_block hh (blockStep_seq hl), seqStep, hm]

theorem step_seq_end {s : State} (hl : s.loc = .seq) (hh : s.host = []) (hm : s.seq[s.idx]? = none) :
    step s = .next (s.commandReturn .okUnit) := by
  rw [step_of_block hh (blockStep_seq hl), seqStep, hm]

/-- Settles O22: the Sequencer looks up message `idx`, and returns where the list has ended. -/
theorem xferRunsMessagesInListOrder : Obligations.XferRunsMessagesInListOrder := by
  refine ⟨fun s ms h hi hms => exec_xfer_of_ready h hi hms, ?_, ?_⟩
  · rintro s i m hl hh rfl hm
    exact step_seq_next hl hh hm
  · rintro s ms hl hh rfl hidx
    have hend : s.seq[s.idx]? = none := by rw [hidx]; exact List.getElem?_length s.seq
    exact ⟨_, step_seq_end hl hh hend, quiescent_commandReturn _ _, rfl, rfl, rfl, rfl, rfl⟩

/-- Settles O23: the list has ended at message 0. -/
theorem emptyXferReturnsOk : Obligations.EmptyXferReturnsOk := by
  intro s h hi
  have hh := host_of_ready h
  refine ⟨_, exec_xfer_of_ready h hi nofun, ?_⟩
  refine runSteps_cons (step_seq_end rfl hh rfl) ?_
  rw [← quieted_of_ready h]
  rfl

end Sys2Proof.Machine
end

section
/-! PROOFS of the family other, the pump (43_fifo_pump.md R200 to R211) and the end of the poll loop
(42_transfer_engine.md R175). -/

namespace Sys2Proof.Machine

/-! ### Moving bytes -/

/-- The cursor after n bytes. -/
def Cursor.moved (c : Cursor) (n : Nat) : Cursor :=
  { remaining := c.remaining - n, position := c.position + n }

theorem Cursor.moved_zero (c : Cursor) : c.moved 0 = c := rfl

theorem Cursor.advance_moved (c : Cursor) (n : Nat) : c.advance.moved n = c.moved (n + 1) := by
  simp only [Cursor.advance, Cursor.moved, Cursor.mk.injEq]
  omega

/-- Moving all the bytes that remain ends at the message's length. -/
theorem Cursor.moved_all {c : Cursor} {len n : Nat} (hsum : c.position + c.remaining = len)
    (hn : n = c.remaining) : c.moved n = { remaining := 0, position := len } := by
  simp only [Cursor.moved, Cursor.mk.injEq]
  omega

theorem Cursor.advance_sum {c : Cursor} {len : Nat} (hsum : c.position + c.remaining = len)
    (h0 : c.remaining ≠ 0) : c.advance.position + c.advance.remaining = len := by
  simp only [Cursor.advance]
  omega

/-! ### Fill -/

/-- The state after a Fill has moved one byte for each status value of `ts`, the FIFO register left as `p`. -/
def State.filled (s : State) (m : Message) (c : Cursor) (ts rest : List Word) (p : Port) : State :=
  { s with events := s.events ++ fillEvents s.mem m c.position ts, device := rest,
           cur := some (c.moved ts.length), port := p }

theorem append_fillEvents_cons (es : List Event) (mem : Memory) (m : Message) (p : Nat) (t : Word)
    (ts : List Word) : es ++ fillEvents mem m p (t :: ts) =
      es ++ [.read .s t, .bufRead p (mem.read (m.buffer.base + p)),
        .write .fifo (zext32 (mem.read (m.buffer.base + p)))] ++ fillEvents mem m (p + 1) ts := by
  simp [fillEvents, zext32]

/-- A Fill moves a byte for each status value that shows TXD, three steps a byte. -/
theorem run_fill {m : Message} {rest : List Word} : ∀ (ts : List Word) {s : State} {c : Cursor},
    s.loc = .eng (.fill .sample) → s.host = [] → s.m = some m → s.cur = some c →
    c.position + c.remaining = m.length → ts.length ≤ c.remaining → (∀ t ∈ ts, t.getLsbD 4 = true) →
    s.device = ts ++ rest → ∃ p, runSteps (3 * ts.length) s = .next (s.filled m c ts rest p) := by
  intro ts
  induction ts with
  | nil =>
    intro s c hl hh hm hc hsum hlen hts hdev
    refine ⟨s.port, ?_⟩
    have hdev' : s.device = rest := hdev
    simp only [State.filled, fillEvents, List.append_nil, List.length_nil, Cursor.moved_zero, ← hdev', ← hc]
    rfl
  | cons t ts ih =>
    intro s c hl hh hm hc hsum hlen hts hdev
    rw [List.length_cons] at hlen ⊢
    have h0 : c.remaining ≠ 0 := by omega
    have hiter := fill_iteration hl hh hm hc h0 (by omega) (answer_cons hdev .s)
      (hts t List.mem_cons_self)
    obtain ⟨p, hrun⟩ := ih (c := c.advance) (s := { s with
        events := s.events ++ [.read .s t, .bufRead c.position (s.mem.read (m.buffer.base + c.position)),
          .write .fifo (zext32 (s.mem.read (m.buffer.base + c.position)))],
        device := s.device.tail, cur := some c.advance,
        port := { s.port with fifo := zext32 (s.mem.read (m.buffer.base + c.position)) } })
      hl hh hm rfl (Cursor.advance_sum hsum h0) (Nat.le_sub_one_of_lt hlen)
      (fun x hx => hts x (List.mem_cons_of_mem t hx)) (by rw [hdev]; rfl)
    refine ⟨p, ?_⟩
    rw [Nat.mul_succ, Nat.add_comm, State.filled, append_fillEvents_cons, List.length_cons,
      ← Cursor.advance_moved]
    exact runSteps_trans hiter hrun

/-- Settles O39: the bytes the status values allow, then a status value without TXD, or no byte left. -/
theorem fillMovesBytesInOrder : Obligations.FillMovesBytesInOrder := by
  intro s m c ts hl hh hm hc hsum hts
  constructor
  · intro t' rest hlt ht' hdev
    obtain ⟨p, hrun⟩ := run_fill ts hl hh hm hc hsum hlt.le hts hdev
    have hstop : step (s.filled m c ts (t' :: rest) p) = _ :=
      fill_stop hl hh rfl (Nat.sub_ne_zero_of_lt hlt) (answer_cons rfl .s) ht'
    exact ⟨_, runSteps_trans (k := 1) hrun (runSteps_cons hstop rfl), rfl, rfl, rfl, rfl, rfl, rfl, rfl⟩
  · intro rest hlen hdev
    obtain ⟨p, hrun⟩ := run_fill ts hl hh hm hc hsum hlen.le hts hdev
    have hend : step (s.filled m c ts rest p) = _ :=
      fill_end hl hh rfl (Nat.sub_eq_zero_of_le hlen.ge)
    exact ⟨_, runSteps_trans (k := 1) hrun (runSteps_cons hend rfl), rfl, rfl,
      congrArg some (Cursor.moved_all hsum hlen), rfl, rfl, rfl, rfl⟩

/-! ### Drain -/

/-- Memory after a Drain has stored the low byte of each FIFO word, from index p on. -/
def drainedMem (mem : Memory) (m : Message) : Nat → List (Word × Word) → Memory
  | _, [] => mem
  | p, (_, w) :: rest => drainedMem (mem.write (m.buffer.base + p) (trunc8 w)) m (p + 1) rest

/-- A Drain leaves every byte alone that is not at the indexes it stores. -/
theorem drainedMem_other (m : Message) {x : Nat} : ∀ (ps : List (Word × Word)) (mem : Memory) (p : Nat),
    (x < m.buffer.base + p ∨ m.buffer.base + p + ps.length ≤ x) →
    (drainedMem mem m p ps).read x = mem.read x := by
  intro ps
  induction ps with
  | nil => exact fun _ _ _ => rfl
  | cons pair ps ih =>
    intro mem p hx
    rw [List.length_cons] at hx
    rw [drainedMem, ih _ _ (by omega), Memory.read_write_other (by omega)]

/-- Byte p + i of the buffer is the low byte of FIFO word i. -/
theorem drainedMem_stored (m : Message) : ∀ (ps : List (Word × Word)) {mem : Memory} (p i : Nat)
    {pair : Word × Word}, mem.wf = true → ps[i]? = some pair →
    (drainedMem mem m p ps).read (m.buffer.base + p + i) = trunc8 pair.2 := by
  intro ps
  induction ps with
  | nil => exact fun p i _ _ hi => by cases hi
  | cons first ps ih =>
    intro mem p i pair hwf hi
    have hwf' := Memory.wf_write hwf (m.buffer.base + p) (trunc8 first.2)
    cases i with
    | zero =>
      cases hi
      rw [drainedMem, drainedMem_other m ps _ _ (by omega)]
      exact Memory.read_write_same hwf _ _
    | succ i =>
      rw [drainedMem, show m.buffer.base + p + (i + 1) = m.buffer.base + (p + 1) + i by omega]
      exact ih (p + 1) i hwf' hi

/-- The state after a Drain has moved one byte for each pair. -/
def State.drained (s : State) (m : Message) (c : Cursor) (ps : List (Word × Word)) (rest : List Word) :
    State :=
  { s with events := s.events ++ drainEvents c.position ps, device := rest,
           cur := some (c.moved ps.length), mem := drainedMem s.mem m c.position ps }

theorem append_drainEvents_cons (es : List Event) (p : Nat) (t w : Word) (ps : List (Word × Word)) :
    es ++ drainEvents p ((t, w) :: ps) =
      es ++ [.read .s t, .read .fifo w, .bufWrite p (trunc8 w)] ++ drainEvents (p + 1) ps := by
  simp [drainEvents, trunc8]

/-- A Drain moves a byte for each pair whose status value shows RXD, three steps a byte. -/
theorem run_drain {m : Message} {rest : List Word} {label : DrainPoint → Label} {done : Label}
    (hd : DrainLabels label done) : ∀ (ps : List (Word × Word)) {s : State} {c : Cursor},
    s.loc = .eng (label .sample) → s.host = [] → s.m = some m → s.cur = some c →
    c.position + c.remaining = m.length → ps.length ≤ c.remaining → (∀ p ∈ ps, p.1.getLsbD 5 = true) →
    s.device = drainAnswers ps ++ rest →
    runSteps (3 * ps.length) s = .next (s.drained m c ps rest) := by
  intro ps
  induction ps with
  | nil =>
    intro s c hl hh hm hc hsum hlen hps hdev
    have hdev' : s.device = rest := hdev
    simp only [State.drained, drainEvents, List.append_nil, List.length_nil, Cursor.moved_zero, drainedMem,
      ← hdev', ← hc]
    rfl
  | cons pair ps ih =>
    obtain ⟨t, w⟩ := pair
    intro s c hl hh hm hc hsum hlen hps hdev
    rw [List.length_cons] at hlen ⊢
    have h0 : c.remaining ≠ 0 := by omega
    have hiter := drain_iteration hd hl hh hm hc h0 (by omega) hdev (hps (t, w) List.mem_cons_self)
    have hrun := ih (c := c.advance) (s := { s with
        events := s.events ++ [.read .s t, .read .fifo w, .bufWrite c.position (trunc8 w)],
        device := drainAnswers ps ++ rest, cur := some c.advance,
        mem := s.mem.write (m.buffer.base + c.position) (trunc8 w) })
      hl hh hm rfl (Cursor.advance_sum hsum h0) (Nat.le_sub_one_of_lt hlen)
      (fun x hx => hps x (List.mem_cons_of_mem (t, w) hx)) rfl
    rw [Nat.mul_succ, Nat.add_comm, State.drained, append_drainEvents_cons, List.length_cons,
      ← Cursor.advance_moved]
    exact runSteps_trans hiter hrun

/-- Settles O40: the bytes the status values allow, then a status value without RXD, or no byte left. -/
theorem drainStoresBytesInOrder : Obligations.DrainStoresBytesInOrder := by
  intro s m c ps start done hlabels hl hh hm hc hsum hwf hps
  obtain ⟨label, hd, rfl⟩ : ∃ label, DrainLabels label done ∧ start = label .sample := by
    obtain ⟨rfl, rfl⟩ | ⟨rfl, rfl⟩ := hlabels
    · exact ⟨.drain, .inl ⟨rfl, rfl⟩, rfl⟩
    · exact ⟨.doneDrain, .inr ⟨rfl, rfl⟩, rfl⟩
  constructor
  · intro t' rest hlt ht' hdev
    have hrun := run_drain hd ps hl hh hm hc hsum hlt.le hps hdev
    have hstop : step (s.drained m c ps (t' :: rest)) = _ :=
      drain_stop hd hl hh rfl (Nat.sub_ne_zero_of_lt hlt) (answer_cons rfl .s) ht'
    exact ⟨_, runSteps_trans (k := 1) hrun (runSteps_cons hstop rfl), rfl, rfl, rfl, rfl, rfl, rfl,
      fun i _ hi => drainedMem_stored m ps c.position i hwf hi,
      fun _ hx => drainedMem_other m ps s.mem c.position hx⟩
  · intro rest hlen hdev
    have hrun := run_drain hd ps hl hh hm hc hsum hlen.le hps hdev
    have hend : step (s.drained m c ps rest) = _ :=
      drain_end hd hl hh rfl (Nat.sub_eq_zero_of_le hlen.ge)
    exact ⟨_, runSteps_trans (k := 1) hrun (runSteps_cons hend rfl), rfl, rfl,
      congrArg some (Cursor.moved_all hsum hlen), rfl, rfl, rfl,
      fun i _ hi => drainedMem_stored m ps c.position i hwf hi,
      fun _ hx => drainedMem_other m ps s.mem c.position hx⟩

/-! ### Every pump call ends -/

theorem inv_runSteps {n : Nat} : ∀ {s t : State}, Inv s → runSteps n s = .next t → Inv t := by
  induction n with
  | zero => intro s t hinv h; cases h; exact hinv
  | succ n ih =>
    intro s t hinv h
    obtain ⟨u, hu⟩ := goodStatesNeverStop s hinv
    rw [runSteps_succ hu] at h
    exact ih (everyStepKeepsTheInvariant s u hinv hu) h

/-- A run that reads no clock and is met by no host action. -/
structure Timeless (s t : State) : Prop where
  host     : t.host = s.host
  deadline : t.deadline = s.deadline
  clock    : t.clock = s.clock
  ticks    : t.ticks = s.ticks

theorem Timeless.trans {s t u : State} (h : Timeless s t) (h' : Timeless t u) : Timeless s u :=
  ⟨h'.host.trans h.host, h'.deadline.trans h.deadline, h'.clock.trans h.clock, h'.ticks.trans h.ticks⟩

/-- One round of a pump call at `sample`: the call is over after a step, or a byte is moved in three. -/
def PumpRound (sample done : Label) : Prop :=
  ∀ (s : State) (c : Cursor), Inv s → s.host = [] → s.loc = .eng sample → s.cur = some c →
    (∃ t, step s = .next t ∧ t.loc = .eng done ∧ Timeless s t) ∨
    (c.remaining ≠ 0 ∧ ∃ t, runSteps 3 s = .next t ∧ t.loc = .eng sample ∧ t.cur = some c.advance ∧
      Timeless s t)

/-- A good state at a label of the poll loop is polling its cursor. -/
theorem polling_of_inv {s : State} {c : Cursor} {m : Message} {c' : Cursor} (hc : s.cur = some c)
    (hp : Polling s m c') : s.m = some m ∧ c.position + c.remaining = m.length := by
  obtain rfl := cursor_eq_of_polling hp hc
  obtain ⟨⟨hm, -⟩, -, ⟨-, hsum⟩, -⟩ := hp
  exact ⟨hm, hsum⟩

theorem fillRound : PumpRound (.fill .sample) .deadline := by
  intro s c hinv hh hl hc
  have hok : LocOk (s.goto (.eng (.fill .sample))) := hl ▸ hinv.loc
  obtain ⟨m, c', hp, -⟩ := hok
  obtain ⟨hm, hsum⟩ := polling_of_inv (s := s) hc hp
  by_cases h0 : c.remaining = 0
  · exact .inl ⟨_, fill_end hl hh hc h0, rfl, rfl, rfl, rfl, rfl⟩
  · cases hw : statusTxd (s.answer .s) with
    | false => exact .inl ⟨_, fill_stop hl hh hc h0 rfl hw, rfl, rfl, rfl, rfl, rfl⟩
    | true =>
      exact .inr ⟨h0, _, fill_iteration hl hh hm hc h0 (by omega) rfl hw, hl, rfl, rfl, rfl, rfl, rfl⟩

theorem drainRound {label : DrainPoint → Label} {done : Label} (hd : DrainLabels label done) :
    PumpRound (label .sample) done := by
  intro s c hinv hh hl hc
  have hok : LocOk (s.goto (.eng (label .sample))) := hl ▸ hinv.loc
  obtain ⟨m, hm, hsum⟩ : ∃ m, s.m = some m ∧ c.position + c.remaining = m.length := by
    obtain ⟨rfl, rfl⟩ | ⟨rfl, rfl⟩ := hd
    · obtain ⟨m, c', hp, -⟩ := hok
      exact ⟨m, polling_of_inv (s := s) hc hp⟩
    · obtain ⟨m, c', hp, -⟩ := hok
      exact ⟨m, polling_of_inv (s := s) hc hp⟩
  by_cases h0 : c.remaining = 0
  · exact .inl ⟨_, drain_end hd hl hh hc h0, rfl, rfl, rfl, rfl, rfl⟩
  · cases hw : statusRxd (s.answer .s) with
    | false => exact .inl ⟨_, drain_stop hd hl hh hc h0 rfl hw, rfl, rfl, rfl, rfl, rfl⟩
    | true =>
      have hsample : blockStep s = .next ((s.regRead .s (s.answer .s)).goto (.eng (label .pop))) := by
        rw [blockStep_anyDrainSample hd hl (by rw [pumpWanted_of hc]; simpa using h0), hw]
        rfl
      refine .inr ⟨h0, _, runSteps_block hsample hh
        (runSteps_block (blockStep_anyDrainPop hd rfl) (by simpa using hh)
        (runSteps_block ((blockStep_anyDrainStore hd rfl).trans (storeStep_eq (m := m) (c := c)
          (by simpa using hm) (by simpa using hc) (by omega) _ _)) (by simpa using hh) rfl)),
        rfl, rfl, rfl, rfl, rfl, rfl⟩

/-- A pump call ends: by induction on the bytes that remain. -/
theorem pump_ends {sample done : Label} (hround : PumpRound sample done) : ∀ (k : Nat) {s : State}
    {c : Cursor}, c.remaining = k → Inv s → s.host = [] → s.loc = .eng sample → s.cur = some c →
    ∃ n t, n ≤ 3 * k + 1 ∧ runSteps n s = .next t ∧ t.loc = .eng done ∧ Timeless s t := by
  intro k
  induction k with
  | zero =>
    intro s c hk hinv hh hl hc
    obtain ⟨t, hstep, ht, htime⟩ | ⟨h0, -⟩ := hround s c hinv hh hl hc
    · exact ⟨1, t, le_rfl, runSteps_cons hstep rfl, ht, htime⟩
    · exact absurd hk h0
  | succ k ih =>
    intro s c hk hinv hh hl hc
    obtain ⟨t, hstep, ht, htime⟩ | ⟨-, t, hrun, ht, htc, htime⟩ := hround s c hinv hh hl hc
    · exact ⟨1, t, by omega, runSteps_cons hstep rfl, ht, htime⟩
    · obtain ⟨n, u, hn, hrun', hu, hutime⟩ := ih (c := c.advance) (by simp [Cursor.advance, hk])
        (inv_runSteps hinv hrun) (htime.host.trans hh) ht htc
      exact ⟨3 + n, u, by omega, runSteps_trans hrun hrun', hu, htime.trans hutime⟩

/-- Settles O41: each of the three calls ends, in rounds of a byte. -/
theorem everyPumpCallEnds : Obligations.EveryPumpCallEnds := by
  intro s c hinv hh hc
  have ends : ∀ {sample done}, PumpRound sample done → s.loc = .eng sample →
      ∃ n t, n ≤ 3 * c.remaining + 1 ∧ runSteps n s = .next t ∧ t.loc = .eng done := by
    intro sample done hround hl
    obtain ⟨n, t, hn, hrun, ht, -⟩ := pump_ends hround c.remaining rfl hinv hh hl hc
    exact ⟨n, t, hn, hrun, ht⟩
  exact ⟨ends fillRound, ends (drainRound (.inl ⟨rfl, rfl⟩)), ends (drainRound (.inr ⟨rfl, rfl⟩))⟩

/-! ### The poll loop ends -/

/-- The engine stands at its exit with a result. -/
def Finishing (t : State) : Prop := t.loc = .eng (.exit .clearControl) ∧ t.r.isSome = true

/-- An iteration leads from the status read to the exit, or to the deadline with no time passed. -/
theorem iteration_ends {s : State} (hinv : Inv s) (hl : s.loc = .eng .pollRead) (hh : s.host = []) :
    ∃ n t, runSteps n s = .next t ∧ (Finishing t ∨ (t.loc = .eng .deadline ∧ Timeless s t)) := by
  have hok : LocOk (s.goto (.eng .pollRead)) := hl ▸ hinv.loc
  obtain ⟨m, c, ⟨⟨hm, -⟩, -, ⟨hc, -⟩, -⟩, -⟩ := hok
  have hpoll := run_poll hl hh hm hc rfl
  have pump : ∀ {sample done}, PumpRound sample done →
      runSteps 2 s = .next ((s.regRead .s (s.answer .s)).goto (.eng sample)) →
      ∃ n t, runSteps n s = .next t ∧ t.loc = .eng done ∧ Timeless s t ∧ Inv t := by
    intro sample done hround hrun
    obtain ⟨n, t, -, hrun', ht, htime⟩ := pump_ends hround c.remaining rfl (inv_runSteps hinv hrun)
      hh rfl hc
    exact ⟨2 + n, t, runSteps_trans hrun hrun', ht, ⟨htime.host, htime.deadline, htime.clock, htime.ticks⟩,
      inv_runSteps (inv_runSteps hinv hrun) hrun'⟩
  cases hd : classify (s.answer .s) c.remaining <;> rw [hd] at hpoll
  case finish res => exact ⟨2, _, hpoll, .inl ⟨rfl, rfl⟩⟩
  case wait => exact ⟨2, _, hpoll, .inr ⟨rfl, rfl, rfl, rfl, rfl⟩⟩
  case fill =>
    obtain ⟨n, t, hrun, ht, htime, -⟩ := pump fillRound hpoll
    exact ⟨n, t, hrun, .inr ⟨ht, htime⟩⟩
  case drain =>
    obtain ⟨n, t, hrun, ht, htime, -⟩ := pump (drainRound (.inl ⟨rfl, rfl⟩)) hpoll
    exact ⟨n, t, hrun, .inr ⟨ht, htime⟩⟩
  case doneCheck =>
    rw [State.follow, doneStep_eq] at hpoll
    split at hpoll
    · obtain ⟨n, t, hrun, ht, htime, htinv⟩ := pump (drainRound (.inr ⟨rfl, rfl⟩)) hpoll
      have htok : LocOk (t.goto (.eng .doneRecheck)) := ht ▸ htinv.loc
      obtain ⟨m', c', ⟨-, -, ⟨hc', -⟩, -⟩, -⟩ := htok
      exact ⟨n + 1, _, runSteps_trans hrun
        (runSteps_cons (step_recheck ht (htime.host.trans hh) hc') rfl), .inl ⟨rfl, rfl⟩⟩
    · exact ⟨2, _, hpoll, .inl ⟨rfl, rfl⟩⟩

/-- Settles O38: by induction on the milliseconds to the deadline; each iteration that does not finish reads
the clock, which has advanced. -/
theorem engineEndsWhenTheClockAdvances : Obligations.EngineEndsWhenTheClockAdvances := by
  intro s d
  induction hk : d + 1 - s.clock using Nat.strong_induction_on generalizing s with
  | _ k ih =>
    intro hinv hl hh hd hticks hadv
    obtain ⟨n, t, hrun, ⟨hloc, hres⟩ | ⟨ht, htime⟩⟩ := iteration_ends hinv hl hh
    · exact ⟨n, t, hrun, hloc, hres⟩
    · have hth := htime.host.trans hh
      have htd := htime.deadline.trans hd
      by_cases hpast : d < t.nowAnswer
      · exact ⟨n + 1, _, runSteps_trans hrun
          (runSteps_cons (step_deadline_passed ht hth htd hpast) rfl), rfl, rfl⟩
      · have hin : t.nowAnswer ≤ d := Nat.le_of_not_lt hpast
        have hback := runSteps_trans hrun
          (runSteps_cons (step_deadline_within ht hth htd hin) (n := 0) rfl)
        have hle : s.clock ≤ t.nowAnswer := htime.clock ▸ Nat.le_add_right t.clock t.advance
        obtain ⟨a, more, hcons⟩ : ∃ a more, s.ticks = a :: more :=
          List.exists_cons_of_length_pos (by omega)
        have hnow : t.nowAnswer = s.clock + a := by
          rw [nowAnswer_cons (htime.ticks.trans hcons), htime.clock]
        have ha : 1 ≤ a := hadv a (by rw [hcons]; exact List.mem_cons_self)
        have hlen : more.length + 1 = s.ticks.length := by rw [hcons]; rfl
        have hmore : t.ticks.tail = more := by rw [htime.ticks, hcons]; rfl
        have henough : d + 1 - t.nowAnswer ≤ t.ticks.tail.length := by rw [hmore]; omega
        have hlater : ∀ x ∈ t.ticks.tail, 1 ≤ x :=
          fun x hx => hadv x (by rw [hcons]; exact List.mem_cons_of_mem a (hmore ▸ hx))
        obtain ⟨n', u, hrun', hu⟩ := ih (d + 1 - t.nowAnswer) (by omega)
          (t.readClock.goto (.eng .pollRead)) rfl (inv_runSteps hinv hback) rfl hth htd henough hlater
        exact ⟨n + 1 + n', u, runSteps_trans hback hrun', hu⟩

end Sys2Proof.Machine
end

section
/-! PROOFS of the family other, whole commands: a probe decided by its first status read
(41_bus_controller.md R146 to R151), a Write and a Read message (42_transfer_engine.md R160). -/

namespace Sys2Proof.Machine

/-- What the device answers depends on its answers to come and the events so far. -/
theorem answer_congr {s u : State} (hdevice : u.device = s.device) (hevents : u.events = s.events)
    (r : Reg) : u.answer r = s.answer r := by
  simp only [State.answer, State.trace, hdevice, hevents]

/-! ### PROBE -/

/-- The result a deciding status value gives a zero-length Write. -/
def probeResult (w : Word) : Result :=
  if w.getLsbD 9 = true then .clockStretchTimeout
  else if w.getLsbD 8 = true ∧ w.getLsbD 0 = false then .busError
  else if w.getLsbD 1 = true then .ok
  else .lengthMismatch

/-- With no byte to move every deciding status value finishes a Write. -/
theorem follow_probe {w : Word} {m : Message} (hdir : m.direction = .write)
    (h : w.getLsbD 9 = true ∨ (w.getLsbD 8 = true ∧ w.getLsbD 0 = false) ∨ w.getLsbD 1 = true ∨
      w.getLsbD 2 = true ∨ w.getLsbD 3 = true) (s : State) :
    s.follow m { remaining := 0, position := 0 } (classify w 0) = s.finish (probeResult w) := by
  have hnotread : ¬ m.direction = .read := by rw [hdir]; exact nofun
  rw [classify_eq_bits, probeResult]
  by_cases h9 : w.getLsbD 9 = true
  · rw [if_pos h9, if_pos h9]; rfl
  rw [if_neg h9, if_neg h9]
  by_cases h8 : w.getLsbD 8 = true ∧ w.getLsbD 0 = false
  · rw [if_pos h8, if_pos h8]; rfl
  rw [if_neg h8, if_neg h8]
  by_cases h1 : w.getLsbD 1 = true
  · rw [if_pos h1, if_pos h1, State.follow, doneStep_eq, if_neg hnotread]; rfl
  rw [if_neg h1, if_neg h1]
  by_cases h2 : w.getLsbD 2 = true
  · rw [if_pos h2]; rfl
  have h3 : w.getLsbD 3 = true :=
    (((h.resolve_left h9).resolve_left h8).resolve_left h1).resolve_left h2
  rw [if_neg h2, if_pos h3]; rfl

theorem probeReturn_probeResult (w : Word) : probeReturn (probeResult w) =
    if w.getLsbD 9 = true then .err .clockStretchTimeout
    else if w.getLsbD 8 = true ∧ w.getLsbD 0 = false then .okBool false
    else if w.getLsbD 1 = true then .okBool true
    else .err .lengthMismatch := by
  unfold probeResult
  split_ifs <;> rfl

/-- Settles O19: the entry, one deciding poll, the exit and the re-init, one after the other. -/
theorem probeDecidedByItsFirstStatusRead : Obligations.ProbeDecidedByItsFirstStatusRead := by
  intro s a t0 w h hi ha ht hw hdecides
  obtain ⟨s, rfl⟩ : ∃ u : State, s = u.quieted := ⟨s, (quieted_of_ready h).symm⟩
  have hh := host_of_ready h
  let s1 := s.quieted.enterEngine .probe (probeMessage a)
  let s2 := s1.entered (probeMessage a) t0
  let s3 := (s2.regRead .s w).finish (probeResult w)
  let s4 := s3.exitWritten.toReinit (probeResult w)
  have hentry : runSteps 7 s1 = .next s2 :=
    run_entry rfl hh rfl ha rfl (Nat.zero_le _) ((nowAnswer_congr rfl rfl rfl).trans ht)
  have hpoll : runSteps 2 s2 = .next s3 := by
    have hanswer : s2.answer .s = w := (answer_congr rfl rfl .s).trans hw
    rw [run_poll (s := s2) (m := probeMessage a) (c := { remaining := 0, position := 0 }) rfl hh rfl rfl
      hanswer]
    exact congrArg Host.Outcome.next (follow_probe rfl hdecides _)
  have hexit : runSteps 2 s3 = .next s4 := run_exit rfl hh rfl (engineReturn_probe rfl _)
  have hreinit : runSteps 2 s4 = .next (s4.reinited (probeResult w)) := run_reinit rfl hh rfl
  refine ⟨s1, exec_probe_of_ready h hi a, ?_⟩
  refine (runSteps_trans (k := 6) hentry (runSteps_trans (k := 4) hpoll
    (runSteps_trans (k := 2) hexit hreinit))).trans ?_
  rw [reinited_of_initialized (s := s4) hi, probeReturn_probeResult, exitEvents, reinitEvents, append_pair,
    append_pair, append_pair]
  rfl

/-! ### One message, from its command to its return -/

/-- The state at the first status read of an XFER of the one message `m`. -/
def State.started (s : State) (m : Message) (t0 : Nat) : State :=
  (({ s with seq := [m], idx := 0, loc := .seq } : State).enterEngine .sequencer m).entered m t0

/-- An XFER of one message reaches its first status read: the Sequencer's step and the entry. -/
theorem run_start {s : State} {m : Message} {a : Nat} {more : List Nat} (hh : s.host = [])
    (ha : m.chipAddress ≤ 0x7F) (hsize : m.length = m.buffer.size) (hmax : m.length ≤ 0xFFFF)
    (hticks : s.ticks = a :: more) :
    runSteps 8 { s with seq := [m], idx := 0, loc := .seq } = .next (s.started m (s.clock + a)) := by
  refine runSteps_cons (step_seq_next (m := m) rfl hh rfl) (run_entry rfl hh rfl ha hsize hmax ?_)
  exact nowAnswer_cons (rest := more) hticks

/-- The state in which an XFER returns `Ok(())`, from the exit of its last message. -/
def State.ended (s : State) : State := s.exitWritten.release.nextMessage.commandReturn .okUnit

theorem quiescent_ended (s : State) : Quiescent s.ended := quiescent_commandReturn _ _

@[simp] theorem State.ended_returns (s : State) : s.ended.returns = s.returns ++ [.okUnit] := rfl
@[simp] theorem State.ended_mem (s : State) : s.ended.mem = s.mem := rfl
@[simp] theorem State.ended_handle (s : State) : s.ended.handle = s.handle := rfl
@[simp] theorem State.ended_device (s : State) : s.ended.device = s.device := rfl
@[simp] theorem State.ended_refused (s : State) : s.ended.refused = s.refused := rfl

@[simp] theorem State.ended_events (s : State) : s.ended.events = s.events ++ exitEvents :=
  (append_pair _ _ _).symm

/-- The end of an XFER's last message: the exit writes, and the Sequencer finds no message more. -/
theorem run_end {s : State} (hl : s.loc = .eng (.exit .clearControl)) (hh : s.host = [])
    (hr : s.r = some .ok) (hk : s.caller = some .sequencer) (hlast : s.seq[s.idx + 1]? = none) :
    runSteps 3 s = .next s.ended :=
  runSteps_trans (k := 1) (run_exit hl hh hr (engineReturn_ok (s := s.exitWritten) hk))
    (runSteps_cons (step_seq_end rfl hh hlast) rfl)

theorem classify_fill {w : Word} (h9 : w.getLsbD 9 = false) (h8 : w.getLsbD 8 = false)
    (h1 : w.getLsbD 1 = false) (h2 : w.getLsbD 2 = true) {remaining : Nat} (h0 : remaining ≠ 0) :
    classify w remaining = .fill := by
  simp only [classify_eq_bits, h9, h8, h1, h2, h0, Bool.false_eq_true, false_and, if_false, if_true]

theorem classify_drain {w : Word} (h9 : w.getLsbD 9 = false) (h8 : w.getLsbD 8 = false)
    (h1 : w.getLsbD 1 = false) (h2 : w.getLsbD 2 = false) (h3 : w.getLsbD 3 = true) {remaining : Nat}
    (h0 : remaining ≠ 0) : classify w remaining = .drain := by
  simp only [classify_eq_bits, h9, h8, h1, h2, h3, h0, Bool.false_eq_true, false_and, if_false, if_true]

theorem classify_done {w : Word} (h9 : w.getLsbD 9 = false) (h8 : w.getLsbD 8 = false)
    (h1 : w.getLsbD 1 = true) (remaining : Nat) : classify w remaining = .doneCheck := by
  simp only [classify_eq_bits, h9, h8, h1, Bool.false_eq_true, false_and, if_false, if_true]

/-- Settles O24: the start, one poll that fills, the Fill of the whole buffer, the deadline's check, one poll
that is done, and the end. -/
theorem writeMessageSendsItsBuffer : Obligations.WriteMessageSendsItsBuffer := by
  intro s m w1 wd ts rest a b more h hi hdir ha hsize hmax hpos hdev hticks hb h19 h18 h11 h12 hlen hts
    hd9 hd8 hd1
  have hh := host_of_ready h
  have hnotread : ¬ m.direction = .read := by rw [hdir]; exact nofun
  let c : Cursor := { remaining := m.length, position := 0 }
  let s1 := s.started m (s.clock + a)
  let s2 := (s1.regRead .s w1).goto (.eng (.fill .sample))
  have hpoll1 : runSteps 2 s1 = .next s2 := by
    rw [run_poll (s := s1) (m := m) (c := c) (w := w1) rfl hh rfl rfl (answer_cons (s := s1) hdev .s),
      classify_fill h19 h18 h11 h12 hpos.ne']
    rfl
  obtain ⟨p, hfill⟩ := run_fill (m := m) (rest := wd :: rest) ts (s := s2) (c := c) rfl hh rfl rfl
    (Nat.zero_add _) hlen.le hts (by show s.device.tail = _; rw [hdev]; rfl)
  have hnone : (c.moved ts.length).remaining = 0 := Nat.sub_eq_zero_of_le hlen.ge
  let s3 := s2.filled m c ts (wd :: rest) p
  let s4 := s3.goto (.eng .deadline)
  have hend : step s3 = .next s4 := fill_end rfl hh rfl hnone
  have hnow : s4.nowAnswer = s.clock + a + b :=
    nowAnswer_cons (rest := more) (show s.ticks.tail = _ by rw [hticks]; rfl)
  let s5 := s4.readClock.goto (.eng .pollRead)
  have hdeadline : step s4 = .next s5 :=
    step_deadline_within (d := s.clock + a + 100) rfl hh rfl (by rw [hnow]; omega)
  let s6 := (s5.regRead .s wd).finish .ok
  have hpoll2 : runSteps 2 s5 = .next s6 := by
    rw [run_poll (s := s5) (m := m) (c := c.moved ts.length) (w := wd) rfl hh rfl rfl
      (answer_cons (s := s5) rfl .s),
      classify_done hd9 hd8 hd1, State.follow, doneStep_eq, if_neg hnotread, if_pos hnone]
  have hfinish : runSteps 3 s6 = .next s6.ended := run_end rfl hh rfl rfl rfl
  refine ⟨_, s6.ended, exec_xfer_of_ready h hi (by simpa using ⟨hsize, hmax⟩), ?_, quiescent_ended s6,
    s6.ended_returns, s6.ended_events.trans ?_, s6.ended_mem, s6.ended_handle, s6.ended_device,
    s6.ended_refused⟩
  · rw [← hlen, show 17 + 3 * ts.length = 8 + (2 + (3 * ts.length + (1 + (1 + (2 + 3))))) by omega]
    exact runSteps_trans (run_start hh ha hsize hmax hticks) (runSteps_trans hpoll1 (runSteps_trans hfill
      (runSteps_trans (runSteps_cons hend rfl) (runSteps_trans (runSteps_cons hdeadline rfl)
        (runSteps_trans hpoll2 hfinish)))))
  · rw [← hnow, append_pair, append_pair]
    rfl

/-- Settles O25: the start, one poll that drains, the Drain of the whole buffer, the deadline's check, one
poll that is done, a final Drain with no byte left, the recheck, and the end. -/
theorem readMessageFillsItsBuffer : Obligations.ReadMessageFillsItsBuffer := by
  intro s m w1 wd w2 ps rest a b more h hi hwf hdir ha hsize hmax hpos hdev hticks hb h19 h18 h11 h12 h13
    hlen hps hd9 hd8 hd1 h25
  have hh := host_of_ready h
  have hdrain : DrainLabels .drain .deadline := .inl ⟨rfl, rfl⟩
  have hfinal : DrainLabels .doneDrain .doneRecheck := .inr ⟨rfl, rfl⟩
  let c : Cursor := { remaining := m.length, position := 0 }
  have hnone : (c.moved ps.length).remaining = 0 := Nat.sub_eq_zero_of_le hlen.ge
  let s1 := s.started m (s.clock + a)
  let s2 := (s1.regRead .s w1).goto (.eng (.drain .sample))
  have hpoll1 : runSteps 2 s1 = .next s2 := by
    rw [run_poll (s := s1) (m := m) (c := c) (w := w1) rfl hh rfl rfl (answer_cons (s := s1) hdev .s),
      classify_drain h19 h18 h11 h12 h13 hpos.ne']
    rfl
  let s3 := s2.drained m c ps (wd :: w2 :: rest)
  have hstore : runSteps (3 * ps.length) s2 = .next s3 :=
    run_drain hdrain ps rfl hh rfl rfl (Nat.zero_add _) hlen.le hps
      (by show s.device.tail = _; rw [hdev]; rfl)
  let s4 := s3.goto (.eng .deadline)
  have hend : step s3 = .next s4 := drain_end hdrain rfl hh rfl hnone
  have hnow : s4.nowAnswer = s.clock + a + b :=
    nowAnswer_cons (rest := more) (show s.ticks.tail = _ by rw [hticks]; rfl)
  let s5 := s4.readClock.goto (.eng .pollRead)
  have hdeadline : step s4 = .next s5 :=
    step_deadline_within (d := s.clock + a + 100) rfl hh rfl (by rw [hnow]; omega)
  let s6 := (s5.regRead .s wd).goto (.eng (.doneDrain .sample))
  have hpoll2 : runSteps 2 s5 = .next s6 := by
    rw [run_poll (s := s5) (m := m) (c := c.moved ps.length) (w := wd) rfl hh rfl rfl
      (answer_cons (s := s5) rfl .s),
      classify_done hd9 hd8 hd1, State.follow, doneStep_eq, if_pos hdir]
  let s7 := s6.goto (.eng .doneRecheck)
  have hend2 : step s6 = .next s7 := drain_end hfinal rfl hh rfl hnone
  let s8 := (s7.regRead .s w2).finish .ok
  have hok : ¬ (w2.getLsbD 5 = true ∨ (c.moved ps.length).remaining ≠ 0) := by
    rw [h25, hnone]; decide
  have hrecheck : step s7 = .next s8 := by
    rw [step_recheck (s := s7) (c := c.moved ps.length) rfl hh rfl,
      show s7.answer .s = w2 from answer_cons rfl .s, readDoneResult, statusRxd, if_neg hok]
  have hfinish : runSteps 3 s8 = .next s8.ended := run_end rfl hh rfl rfl rfl
  refine ⟨_, s8.ended, exec_xfer_of_ready h hi (by simpa using ⟨hsize, hmax⟩), ?_, quiescent_ended s8,
    s8.ended_returns, s8.ended_events.trans ?_, fun i _ hpair => drainedMem_stored m ps 0 i hwf hpair,
    fun x hx => drainedMem_other m ps s.mem 0 (by omega)⟩
  · rw [← hlen, show 19 + 3 * ps.length =
      8 + (2 + (3 * ps.length + (1 + (1 + (2 + (1 + (1 + 3))))))) by omega]
    exact runSteps_trans (run_start hh ha hsize hmax hticks) (runSteps_trans hpoll1 (runSteps_trans hstore
      (runSteps_trans (runSteps_cons hend rfl) (runSteps_trans (runSteps_cons hdeadline rfl)
        (runSteps_trans hpoll2 (runSteps_trans (runSteps_cons hend2 rfl)
          (runSteps_trans (runSteps_cons hrecheck rfl) hfinish)))))))
  · rw [← hnow, append_pair, List.append_cons, append_pair]
    rfl

end Sys2Proof.Machine
end
